-- ==== Sys2Proof/Word.lean ====
section
/-! DEFINITION. The word types of the block (`00_scope.md` section 7, `10_state.md`) and the byte spaces' data type. -/
namespace Sys2Proof

/-- A byte, `u8`: what a ring slot, a wire byte and an offset of the persistent block hold. -/
abbrev Byte := BitVec 8

/-- `u16`: a raw count, a hold length, a 16-bit wire value. -/
abbrev Half := BitVec 16

/-- `u32`: a clock count, a threshold, a sample count. -/
abbrev Word := BitVec 32

/-- `f32`: the bit pattern of an IEEE 754 binary32 value (R114); the arithmetic is in `Machine/Float.lean`. -/
abbrev F32 := BitVec 32

/-- One byte space (R40) as address and byte pairs, in the canonical form `Memory.wf` of `Machine/Ops.lean`:
addresses strictly rising, no pair equal to what an unlisted address reads as. -/
abbrev Memory := List Host.Cell

end Sys2Proof
end

