-- ==== Sys2Proof/Syntax.lean ====
section
/-! DEFINITION. The instructions: one constructor per row of `spec/opcode_table.json` (R69, `30_encoding.md`), twelve
request frames and six response frames. -/
namespace Sys2Proof

/-- The frames of the opcode table.

A REQUEST carries its whole payload `P`, because the format admits every length (R62) and each length is a form of the
command: shorter than the handler needs (class (b), no effect), exact, or longer (the extra bytes are ignored but covered
by the checksum, R68). Of a command without operands every payload byte is such an extra byte.

A RESPONSE carries its operands as R69 lists them. -/
inductive Instr where
  /-- `GetIdAndVersion`, opcode 0x01 (R174). -/
  | getIdAndVersion (payload : List Byte)
  /-- `GetThreshold`, opcode 0x02 (R175). -/
  | getThreshold (payload : List Byte)
  /-- `SetThreshold`, opcode 0x03 (R176); operand `P[0]`, `u8`. -/
  | setThreshold (payload : List Byte)
  /-- `ReadCurrentValues`, opcode 0x04 (R180). -/
  | readCurrentValues (payload : List Byte)
  /-- `ReadCurrentAverages`, opcode 0x05 (R181). -/
  | readCurrentAverages (payload : List Byte)
  /-- `SetTriggerMode`, opcode 0x06 (R182); operand `P[0]`, `u8`. -/
  | setTriggerMode (payload : List Byte)
  /-- `GetTriggerMode`, opcode 0x07 (R183). -/
  | getTriggerMode (payload : List Byte)
  /-- `Reset`, opcode 0x08 (R184). -/
  | reset (payload : List Byte)
  /-- `Recalibrate`, opcode 0x09 (R185). -/
  | recalibrate (payload : List Byte)
  /-- `StoreSettings`, opcode 0x0A (R186). -/
  | storeSettings (payload : List Byte)
  /-- `GetAlpha`, opcode 0x0B (R187). -/
  | getAlpha (payload : List Byte)
  /-- `SetAlpha`, opcode 0x0C (R188); operand `P[0]`, `pct`. -/
  | setAlpha (payload : List Byte)
  /-- The response of 0x01: `bytes16` identifier, `u8` version (R174). -/
  | getIdAndVersionResp (identifier : List Byte) (version : Byte)
  /-- The response of 0x02: `u8` (R175). -/
  | getThresholdResp (threshold : Byte)
  /-- The response of 0x04: four `u16le`, channel 0 first (R180). -/
  | readCurrentValuesResp (raw0 raw1 raw2 raw3 : Half)
  /-- The response of 0x05: four `u16le`, channel 0 first (R181). -/
  | readCurrentAveragesResp (avg0 avg1 avg2 avg3 : Half)
  /-- The response of 0x07: `u8` (R183). -/
  | getTriggerModeResp (mode : Byte)
  /-- The response of 0x0B: `pct` (R187). -/
  | getAlphaResp (percent : Byte)
  deriving DecidableEq, Repr

end Sys2Proof
end

