-- ==== Sys2Proof/WellFormed.lean ====
section
/-! DEFINITION. Which instruction terms the frame format can carry (R62, R67). -/
namespace Sys2Proof

/-- A payload is 0 to 253 bytes, since `2 <= L <= 255` (R62). -/
def payloadFits (p : List Byte) : Bool := decide (p.length ≤ 253)

/-- A well-formed instruction: a request's payload fits the length byte (R62); the identifier of the 0x01 response is
`bytes16` (R67); the operand of the 0x0B response is `pct`, 0 to 100 (R67, R187). Every other operand is legal at every
value of its type: an illegal field value is a form a handler treats (R74), not an encoding. -/
def Instr.wellFormed : Instr → Bool
  | .getIdAndVersion p => payloadFits p
  | .getThreshold p => payloadFits p
  | .setThreshold p => payloadFits p
  | .readCurrentValues p => payloadFits p
  | .readCurrentAverages p => payloadFits p
  | .setTriggerMode p => payloadFits p
  | .getTriggerMode p => payloadFits p
  | .reset p => payloadFits p
  | .recalibrate p => payloadFits p
  | .storeSettings p => payloadFits p
  | .getAlpha p => payloadFits p
  | .setAlpha p => payloadFits p
  | .getIdAndVersionResp identifier _ => decide (identifier.length = 16)
  | .getThresholdResp _ => true
  | .readCurrentValuesResp _ _ _ _ => true
  | .readCurrentAveragesResp _ _ _ _ => true
  | .getTriggerModeResp _ => true
  | .getAlphaResp percent => decide (percent.toNat ≤ 100)

/-- Whether the row is a request of the table (the direction of R64). -/
def Instr.isRequest : Instr → Bool
  | .getIdAndVersion _ => true
  | .getThreshold _ => true
  | .setThreshold _ => true
  | .readCurrentValues _ => true
  | .readCurrentAverages _ => true
  | .setTriggerMode _ => true
  | .getTriggerMode _ => true
  | .reset _ => true
  | .recalibrate _ => true
  | .storeSettings _ => true
  | .getAlpha _ => true
  | .setAlpha _ => true
  | .getIdAndVersionResp _ _ => false
  | .getThresholdResp _ => false
  | .readCurrentValuesResp _ _ _ _ => false
  | .readCurrentAveragesResp _ _ _ _ => false
  | .getTriggerModeResp _ => false
  | .getAlphaResp _ => false

end Sys2Proof
end

