-- ==== Sys2Proof/Decode.lean ====
section
/-! DEFINITION. The frame format both ways (`30_encoding.md`): the decoder, total on any bytes and rejecting by name, then
the encoder, and the opcode table's numbering of words. -/
namespace Sys2Proof

/-- The sync `AA 55 AA 55` (R61). -/
def syncBytes : List Byte := [0xAA, 0x55, 0xAA, 0x55]

/-- The xor of a byte sequence, 0x00 for the empty one (R63). -/
def xorAll : List Byte → Byte
  | [] => 0x00
  | b :: bs => b ^^^ xorAll bs

/-- The low byte of a 16-bit value, `v[7:0]` (R42). -/
def lowByte (v : Half) : Byte := v.setWidth 8

/-- The high byte of a 16-bit value, `v[15:8]` (R42). -/
def highByte (v : Half) : Byte := (v >>> 8).setWidth 8

/-- `u16le` as payload bytes, low byte first (R42, R67). -/
def le16Bytes (v : Half) : List Byte := [lowByte v, highByte v]

/-- Two payload bytes read as `u16le` (R42, R67). -/
def le16 (lo hi : Byte) : Half := hi ++ lo

/-- Why bytes are no frame, or a frame no row of the table. -/
inductive Reject where
  /-- Fewer bytes than the frame has, or than its length byte announces (R96). -/
  | incomplete
  /-- Bytes 0 to 3 are not the sync (R61). -/
  | badSync
  /-- Byte 4 is 0xAA, which is never an opcode (R72). -/
  | syncByteAsOpcode
  /-- `L` is 0 or 1 (R73). -/
  | lengthTooSmall
  /-- `L + 5` is more than the frames allowed here (R73). -/
  | lengthTooLarge
  /-- The xor of bytes 4 to `L + 4` is not zero (R63). -/
  | badChecksum
  /-- A good frame whose opcode has no row (R71). -/
  | unknownOpcode (op : Byte)
  /-- A good frame with a response row's opcode and a payload shorter than the row's (R70). -/
  | shortResponse (op : Byte)
  deriving DecidableEq, Repr

/-- `Decode(F)` of R66 on the bytes at hand, with `maxFrame` the longest frame allowed: 260 for the format itself (R62),
`RX_CAP - 1` in the scanner (R97). It reads the frame at the head of the sequence and ignores what follows. The checks
stand in the order of R207: frame start, length legality, completeness, checksum. -/
def parseFrame (maxFrame : Nat) : List Byte → Except Reject (Byte × List Byte)
  | b0 :: b1 :: b2 :: b3 :: op :: rest =>
    if [b0, b1, b2, b3] ≠ syncBytes then .error .badSync
    else if op = 0xAA then .error .syncByteAsOpcode
    else
      match rest with
      | [] => .error .incomplete
      | len :: body =>
        if len.toNat < 2 then .error .lengthTooSmall
        else if len.toNat + 5 > maxFrame then .error .lengthTooLarge
        else if body.length < len.toNat - 1 then .error .incomplete
        else if xorAll (op :: len :: body.take (len.toNat - 1)) ≠ 0x00 then .error .badChecksum
        else .ok (op, body.take (len.toNat - 2))
  | _ => .error .incomplete

/-- The longest frame of the format: `L + 5` with `L = 255` (R62). -/
def maxFrameBytes : Nat := 260

/-- The request row an opcode selects (R69, R70). A payload shorter than the command's operand is kept, because the
handler, not the decoder, treats it (R170, class (b)). -/
def requestOf (op : Byte) (payload : List Byte) : Except Reject Instr :=
  match op.toNat with
  | 0x01 => .ok (.getIdAndVersion payload)
  | 0x02 => .ok (.getThreshold payload)
  | 0x03 => .ok (.setThreshold payload)
  | 0x04 => .ok (.readCurrentValues payload)
  | 0x05 => .ok (.readCurrentAverages payload)
  | 0x06 => .ok (.setTriggerMode payload)
  | 0x07 => .ok (.getTriggerMode payload)
  | 0x08 => .ok (.reset payload)
  | 0x09 => .ok (.recalibrate payload)
  | 0x0A => .ok (.storeSettings payload)
  | 0x0B => .ok (.getAlpha payload)
  | 0x0C => .ok (.setAlpha payload)
  | _ => .error (.unknownOpcode op)

/-- The response row an opcode selects (R70): the payload must be at least as long as the row's (R69), and bytes after it are
ignored (R68). -/
def responseOf (op : Byte) (payload : List Byte) : Except Reject Instr :=
  match op.toNat, payload with
  | 0x01, p =>
    if p.length < 17 then .error (.shortResponse op) else .ok (.getIdAndVersionResp (p.take 16) (p.getD 16 0x00))
  | 0x02, t :: _ => .ok (.getThresholdResp t)
  | 0x04, a :: b :: c :: d :: e :: f :: g :: h :: _ => .ok (.readCurrentValuesResp (le16 a b) (le16 c d) (le16 e f) (le16 g h))
  | 0x05, a :: b :: c :: d :: e :: f :: g :: h :: _ => .ok (.readCurrentAveragesResp (le16 a b) (le16 c d) (le16 e f) (le16 g h))
  | 0x07, m :: _ => .ok (.getTriggerModeResp m)
  | 0x0B, p :: _ => .ok (.getAlphaResp p)
  | n, _ => if n = 0x02 ∨ n = 0x04 ∨ n = 0x05 ∨ n = 0x07 ∨ n = 0x0B then .error (.shortResponse op)
            else .error (.unknownOpcode op)

/-- The block's decoder: a request frame at the head of the bytes (R66, R70). -/
def decode (bytes : List Byte) : Except Reject Instr :=
  match parseFrame maxFrameBytes bytes with
  | .ok (op, payload) => requestOf op payload
  | .error r => .error r

/-- The master's decoder: a response frame at the head of the bytes (R70). Direction alone tells the two apart. -/
def decodeResponse (bytes : List Byte) : Except Reject Instr :=
  match parseFrame maxFrameBytes bytes with
  | .ok (op, payload) => responseOf op payload
  | .error r => .error r

/-- `Encode(op, P)` (R65). -/
def encodeFrame (op : Byte) (payload : List Byte) : List Byte :=
  let len : Byte := BitVec.ofNat 8 (payload.length + 2)
  syncBytes ++ op :: len :: (payload ++ [op ^^^ len ^^^ xorAll payload])

/-- The opcode byte of a row (R69); a response carries its request's (R64). -/
def Instr.opcode : Instr → Byte
  | .getIdAndVersion _ => 0x01
  | .getThreshold _ => 0x02
  | .setThreshold _ => 0x03
  | .readCurrentValues _ => 0x04
  | .readCurrentAverages _ => 0x05
  | .setTriggerMode _ => 0x06
  | .getTriggerMode _ => 0x07
  | .reset _ => 0x08
  | .recalibrate _ => 0x09
  | .storeSettings _ => 0x0A
  | .getAlpha _ => 0x0B
  | .setAlpha _ => 0x0C
  | .getIdAndVersionResp _ _ => 0x01
  | .getThresholdResp _ => 0x02
  | .readCurrentValuesResp _ _ _ _ => 0x04
  | .readCurrentAveragesResp _ _ _ _ => 0x05
  | .getTriggerModeResp _ => 0x07
  | .getAlphaResp _ => 0x0B

/-- Four 16-bit values as the eight payload bytes of R180, channel 0 first. -/
def fourHalves (v0 v1 v2 v3 : Half) : List Byte :=
  le16Bytes v0 ++ le16Bytes v1 ++ le16Bytes v2 ++ le16Bytes v3

/-- The payload bytes of a row's operands (R67, R69). -/
def Instr.payload : Instr → List Byte
  | .getIdAndVersion p => p
  | .getThreshold p => p
  | .setThreshold p => p
  | .readCurrentValues p => p
  | .readCurrentAverages p => p
  | .setTriggerMode p => p
  | .getTriggerMode p => p
  | .reset p => p
  | .recalibrate p => p
  | .storeSettings p => p
  | .getAlpha p => p
  | .setAlpha p => p
  | .getIdAndVersionResp identifier version => identifier ++ [version]
  | .getThresholdResp threshold => [threshold]
  | .readCurrentValuesResp raw0 raw1 raw2 raw3 => fourHalves raw0 raw1 raw2 raw3
  | .readCurrentAveragesResp avg0 avg1 avg2 avg3 => fourHalves avg0 avg1 avg2 avg3
  | .getTriggerModeResp mode => [mode]
  | .getAlphaResp percent => [percent]

/-- The frame of an instruction. -/
def encode (i : Instr) : List Byte := encodeFrame i.opcode i.payload

/-! ## The opcode table's numbering of words (R70, log 13)

A row numbers one 40-bit word, `F[0]` in its bits 39 to 32 and `F[4]` in its bits 7 to 0; the bytes after it count on from
bit 40. The table gives the length byte, the payload and the checksum no bits. -/

/-- `n` bytes of `w`, the most significant first. -/
def bytesMsbFirst : Nat → Nat → List Byte
  | 0, _ => []
  | n + 1, w => BitVec.ofNat 8 (w >>> (8 * n)) :: bytesMsbFirst n w

/-- `n` bytes of `w`, the least significant first. -/
def bytesLsbFirst : Nat → Nat → List Byte
  | 0, _ => []
  | n + 1, w => BitVec.ofNat 8 w :: bytesLsbFirst n (w >>> 8)

/-- How many operand bytes a request row needs: one for the three set commands, else none (R69). -/
def operandBytes (op : Byte) : Nat :=
  if op = 0x03 ∨ op = 0x06 ∨ op = 0x0C then 1 else 0

/-- The bytes the hardware stores for a table word. A word of the row's own 40 bits is completed with the row's operands
zero and the length byte and checksum that the format then fixes (DESIGN CHOICE, log 13); in a longer word the bytes after
the header are the word's own. -/
def tableWordBytes (nbits w : Nat) : List Byte :=
  let header := bytesMsbFirst 5 (w % 2 ^ 40)
  let op : Byte := BitVec.ofNat 8 w
  if nbits ≤ 40 then header.take 4 ++ (encodeFrame op (List.replicate (operandBytes op) 0x00)).drop 4
  else header ++ bytesLsbFirst ((nbits - 40 + 7) / 8) (w >>> 40)

/-- The instruction the decoder reads from a table word. -/
def decodeTableWord (nbits w : Nat) : Option Instr :=
  match decode (tableWordBytes nbits w) with
  | .ok i => some i
  | .error _ => none

end Sys2Proof
end

