-- ==== Sys2Proof/Config.lean ====
section
/-! DEFINITION. What an implementation fixes: the build parameters of R4 as plain data, and the free values, opaque
constants about which nothing can be proved. -/
namespace Sys2Proof

/-- The build parameters of R4 (`00_scope.md`). They are data of the machine (a field of `State` that no step changes),
so that a statement about every state is a statement about every build. `NCHAN = 4` and `CLK_W = 32` are fixed and
stand in the types. -/
structure Params where
  /-- `RX_CAP`: slots of the receive ring. -/
  rxCap : Nat
  /-- `TX_CAP`: slots of the transmit ring. -/
  txCap : Nat
  /-- `ADC_BITS`: width of a raw count. -/
  adcBits : Nat
  /-- `TICK_MS_INC`: whole milliseconds per tick. -/
  tickMsInc : Nat
  /-- `TICK_FRACT_INC`: fraction units per tick. -/
  tickFractInc : Nat
  /-- `FRACT_MAX`: fraction units in a millisecond. -/
  fractMax : Nat
  /-- `TICK_US`: microseconds per tick (R153). -/
  tickUs : Nat
  /-- `DEFAULT_TRIGMODE`. -/
  defaultTrigMode : Byte
  /-- `DEFAULT_THRESHOLD`. -/
  defaultThreshold : Word
  /-- `DEFAULT_ALPHA`, a binary32 value. -/
  defaultAlpha : F32
  /-- `DEFAULT_CALSAMPLES`. -/
  defaultCalSamples : Word
  /-- `DEFAULT_DEBOUNCE`. -/
  defaultDebounce : Half
  /-- `BOARD_ID`: the 16 bytes of opcode 0x01. -/
  boardId : List Byte
  /-- `BOARD_VERSION`. -/
  boardVersion : Byte
  /-- `PERSIST_SETTLE_MS`: no rule depends on the number (R31). -/
  persistSettleMs : Nat
  /-- `PROBE_ACTIVE_LEVEL`: no rule reads it, the model's input is the Boolean (R10). -/
  probeActiveLevel : Bool
  /-- `BUS_ADDR`: no rule reads it. -/
  busAddr : Nat
  deriving DecidableEq, Repr

/-- The constraints of R4, "a constraint the model must check". `0 <= alpha <= 1` is read on bit patterns: the
non-negative binary32 values up to 1.0 are the patterns up to `0x3F800000`, and `-0.0` equals zero. -/
def Params.ok (p : Params) : Bool :=
  decide (9 ≤ p.rxCap ∧ p.rxCap ≤ 256) && decide (25 ≤ p.txCap ∧ p.txCap ≤ 256) &&
  decide (1 ≤ p.adcBits ∧ p.adcBits ≤ 16) && decide (1 ≤ p.fractMax ∧ p.fractMax ≤ 256) &&
  decide (p.tickFractInc < p.fractMax) && decide (0 < p.tickUs) && decide (p.defaultTrigMode.toNat ≤ 3) &&
  decide (p.defaultAlpha.toNat ≤ 0x3F800000 ∨ p.defaultAlpha.toNat = 0x80000000) && decide (p.boardId.length = 16)

/-- DESIGN CHOICE (unsafe, log 1): the build that `State.reset` is of. R4 leaves every value open; these are the defaults
of R4 where it gives one and otherwise the values `95_test_vectors.md` uses. -/
def Params.default : Params where
  rxCap := 32
  txCap := 32
  adcBits := 10
  tickMsInc := 1
  tickFractInc := 0
  fractMax := 125
  tickUs := 1000
  defaultTrigMode := 1
  defaultThreshold := 7
  defaultAlpha := 0x3F000000
  defaultCalSamples := 1000
  defaultDebounce := 100
  boardId := [0x00, 0x01, 0x02, 0x03, 0x04, 0x05, 0x06, 0x07, 0x08, 0x09, 0x0A, 0x0B, 0x0C, 0x0D, 0x0E, 0x0F]
  boardVersion := 0x01
  persistSettleMs := 1
  probeActiveLevel := true
  busAddr := 0

/-- Free value (safe, log 5): which of several enabled agents steps next when `inputs` says nothing (R212, U8), for
the n-th draw. -/
opaque Config.freeChoice : Nat → Nat

/-- Free value (safe, log 9): after a bus-level error, whether `Bus` acts (R205, U5), for the n-th draw. -/
opaque Config.freeBool : Nat → Bool

/-- Free value (safe, log 5): what a ring slot holds after `rst` (R33, U1): draw, ring (false: receive), address. -/
opaque Config.freeCell : Nat → Bool → Nat → Byte

/-- Free value (safe, log 5): what a field of `settings` holds after `rst` (R33, U2): draw, field number. -/
opaque Config.freeSetting : Nat → Nat → Word

/-- Free value (safe, log 6): sign and payload bits of the NaN an operation with these operands returns. -/
opaque Config.freeNaN : F32 → F32 → F32

end Sys2Proof
end

