-- ==== Sys2Proof/Machine/Float.lean ====
section
/-! DEFINITION. IEEE 754 binary32 (R114, `42_signal_acquisition.md`): every operation computes the exact result as a
fraction of natural numbers and rounds it once, to nearest with ties to even. Subnormals are kept; there are no flags. -/
namespace Sys2Proof.Machine

/-! ## Reading a bit pattern -/

/-- The sign bit. -/
def f32Neg (a : F32) : Bool := a.getLsbD 31

/-- The magnitude's 31 bits; on values that are no NaN their order is the order of the magnitudes. -/
def f32Mag (a : F32) : Nat := a.toNat % 2 ^ 31

/-- The bit pattern of `+inf`. -/
def f32InfMag : Nat := 0x7F800000

/-- A NaN: the exponent field all ones and the fraction not zero. -/
def f32IsNaN (a : F32) : Bool := decide (f32InfMag < f32Mag a)

/-- An infinity of either sign. -/
def f32IsInf (a : F32) : Bool := decide (f32Mag a = f32InfMag)

/-- A zero of either sign. -/
def f32IsZero (a : F32) : Bool := decide (f32Mag a = 0)

/-- The magnitude of a finite value in units of `2^-149`, the smallest subnormal: exact. -/
def f32Units (a : F32) : Nat :=
  let e := f32Mag a / 2 ^ 23
  let frac := f32Mag a % 2 ^ 23
  if e = 0 then frac else (2 ^ 23 + frac) * 2 ^ (e - 1)

/-- How many units the value 1 has. -/
def f32One : Nat := 2 ^ 149

/-! ## Rounding -/

/-- `p / q` to the nearest natural number, ties to even. -/
def roundHalfEven (p q : Nat) : Nat :=
  let n := p / q
  let r := p % q
  if q < 2 * r ∨ (2 * r = q ∧ n % 2 = 1) then n + 1 else n

/-- The magnitude bits of the binary32 value nearest to `p / q` units. The exponent `e` is the one that leaves at most 24
bits; a significand that rounds up to `2^24` carries into the exponent by the addition, and a magnitude that leaves the
finite range is infinity. -/
def roundMag (p q : Nat) : Nat :=
  let e := Nat.log2 (p / q) - 23
  min (e * 2 ^ 23 + roundHalfEven p (q * 2 ^ e)) f32InfMag

/-- A sign and 31 magnitude bits. -/
def f32Pack (neg : Bool) (mag : Nat) : F32 :=
  BitVec.ofNat 32 ((if neg then 2 ^ 31 else 0) + mag)

/-- The binary32 value nearest to `p / q` units, with a sign. -/
def f32Round (neg : Bool) (p q : Nat) : F32 := f32Pack neg (roundMag p q)

/-- The NaN an operation on `a` and `b` returns. IEEE 754 does not fix its sign and payload: they are a free value; the
quiet bit is set (log 6). -/
def f32NaN (a b : F32) : F32 := 0x7FC00000 ||| Config.freeNaN a b

/-! ## The operations of `00_scope.md` section 7 -/

/-- A finite value in units, with its sign. -/
def f32Signed (a : F32) : Int := if f32Neg a then -(f32Units a : Int) else (f32Units a : Int)

/-- The sign bit flipped. -/
def fneg (a : F32) : F32 := a ^^^ 0x80000000

/-- `fadd(a, b)`. An exact sum of zero is `+0.0` unless both operands are negative. -/
def fadd (a b : F32) : F32 :=
  if f32IsNaN a || f32IsNaN b then f32NaN a b
  else if f32IsInf a then (if f32IsInf b && (f32Neg a != f32Neg b) then f32NaN a b else a)
  else if f32IsInf b then b
  else
    let x := f32Signed a + f32Signed b
    if x = 0 then f32Pack (f32Neg a && f32Neg b) 0
    else f32Round (decide (x < 0)) x.natAbs 1

/-- `fsub(a, b)`. -/
def fsub (a b : F32) : F32 :=
  if f32IsNaN a || f32IsNaN b then f32NaN a b else fadd a (fneg b)

/-- `fmul(a, b)`. -/
def fmul (a b : F32) : F32 :=
  let neg := f32Neg a != f32Neg b
  if f32IsNaN a || f32IsNaN b then f32NaN a b
  else if f32IsInf a || f32IsInf b then
    (if f32IsZero a || f32IsZero b then f32NaN a b else f32Pack neg f32InfMag)
  else f32Round neg (f32Units a * f32Units b) f32One

/-- `fdiv(a, b)`. -/
def fdiv (a b : F32) : F32 :=
  let neg := f32Neg a != f32Neg b
  if f32IsNaN a || f32IsNaN b then f32NaN a b
  else if f32IsInf a then (if f32IsInf b then f32NaN a b else f32Pack neg f32InfMag)
  else if f32IsInf b then f32Pack neg 0
  else if f32IsZero b then (if f32IsZero a then f32NaN a b else f32Pack neg f32InfMag)
  else f32Round neg (f32Units a * f32One) (f32Units b)

/-- `fabs(a)` clears the sign bit. -/
def fabs (a : F32) : F32 := a &&& 0x7FFFFFFF

/-- `u2f(n)`: exact below `2^24`, else to nearest even. -/
def u2f (n : Nat) : F32 := f32Round false (n * f32One) 1

/-- Where a value that is no NaN stands in the order; both zeros stand at 0. -/
def f32Rank (a : F32) : Int := if f32Neg a then -(f32Mag a : Int) else (f32Mag a : Int)

/-- `fgt(a, b)`, the quiet comparison: false when either is a NaN. -/
def fgt (a b : F32) : Bool :=
  !f32IsNaN a && !f32IsNaN b && decide (f32Rank b < f32Rank a)

/-- `a >= b`, quiet. -/
def fge (a b : F32) : Bool :=
  !f32IsNaN a && !f32IsNaN b && decide (f32Rank b ≤ f32Rank a)

/-- The integer part of the magnitude of a finite value. -/
def f32IntPart (a : F32) : Nat := f32Units a / f32One

/-- 0.5. -/
def f32Half : F32 := 0x3F000000
/-- 1.0. -/
def f32Unit : F32 := 0x3F800000
/-- 100.0. -/
def f32Hundred : F32 := 0x42C80000
/-- 101.0. -/
def f32HundredOne : F32 := 0x42CA0000
/-- 65535.0. -/
def f32MaxHalf : F32 := 0x477FFF00
/-- `+0.0`. -/
def f32Zero : F32 := 0x00000000

end Sys2Proof.Machine
end

