-- ==== Sys2Proof/Machine/State.lean ====
section
/-! DEFINITION. The state of the block as plain data (`10_state.md`), why a step can stop, and the state after reset. -/
namespace Sys2Proof.Machine

/-- One entry of the channel register file (R13). -/
structure Channel where
  /-- The most recent raw count. -/
  rawSample : Half
  /-- Output of the lowpass filter. -/
  average : F32
  /-- `fabs(average - centerline)` at the last Armed sample. -/
  deviation : F32
  /-- Armed: the learned baseline. Calibrating: the running sum of raw samples. -/
  centerline : F32
  deriving DecidableEq, Repr

/-- `phase`, the main loop's sequencer (R14): the next step of `Main`. The value 3 of its two bits is never reached and
has no constructor. -/
inductive Phase where
  | scan
  | trigger
  | debounce
  deriving DecidableEq, Repr

/-- The five value fields of Settings (R21). -/
structure Settings where
  trigMode : Byte
  thresholdFactor : Word
  filterAlpha : F32
  calibrationSampleCount : Word
  debounceLengthMillis : Half
  deriving DecidableEq, Repr

/-- DebounceState (R24). -/
structure Debounce where
  /-- Hold length of the pulse in progress, 0 when none is. -/
  counter : Half
  /-- `clock.millis` at the fire action. -/
  startTime : Word
  deriving DecidableEq, Repr

/-- ClockState (R26). -/
structure Clock where
  millis : Word
  microFraction : Byte
  overflowCount : Word
  deriving DecidableEq, Repr

/-- A ring buffer (R27, R80): storage and two one-byte indices. Its capacity is a parameter. -/
structure Ring where
  storage : Memory
  head : Byte
  tail : Byte
  deriving DecidableEq, Repr

/-- The kinds of a bus byte event (R11) with the byte of `ev_rx`. -/
inductive BusEvent where
  /-- `ev_rx(b)`: the master wrote `b`. -/
  | rx (b : Byte)
  /-- `ev_txreq`: the master reads a byte. -/
  | txreq
  /-- `ev_buserr`: a bus-level error. -/
  | buserr
  deriving DecidableEq, Repr

/-- Who takes a step (R3). `settle` is the model's own: the passing of `PERSIST_SETTLE_MS` (R31, log 10). -/
inductive Agent where
  | tick
  | conv
  | bus
  | main
  | settle
  deriving DecidableEq, Repr

/-- What the outside world does between two steps of the block (R10, R11), and which agent it lets step next (R51, R212;
log 4). -/
inductive Input where
  /-- `ev_tick`. -/
  | tick
  /-- `ev_conv(raw)`. -/
  | conv (raw : Half)
  /-- `ev_rx(b)`, `ev_txreq` or `ev_buserr`. -/
  | bus (e : BusEvent)
  /-- The level `probeActive` becomes this. -/
  | probe (active : Bool)
  /-- The level `rst` is asserted. -/
  | assertReset
  /-- The level `rst` is released. -/
  | releaseReset
  /-- This agent takes the next step, if it is enabled. -/
  | run (a : Agent)
  deriving DecidableEq, Repr

/-- The boot step `Main` takes next (R231), or that boot is over. The model's own field (log 12). -/
inductive BootStep where
  | b1
  | b2
  | b3
  | b4
  | done
  deriving DecidableEq, Repr

/-- Which opcode is taking its four per-channel snapshots (R49). -/
inductive SnapKind where
  /-- opcode 0x04. -/
  | values
  /-- opcode 0x05. -/
  | averages
  deriving DecidableEq, Repr

/-- The preemption points of R52 inside a Scan phase: what `Main` does next. The model's own rendering of the places where a
handler may run (log 11). -/
inductive MicroStep where
  /-- Nothing of a frame is in progress: the phase step of `phase`. -/
  | phaseStep
  /-- The scanner has a good frame at the tail: the dispatcher's handler (R99). -/
  | dispatch
  /-- A handler of opcode 0x04 or 0x05 between two critical sections (R49), with the wire values taken, channel 0 first. -/
  | snapshot (kind : SnapKind) (taken : List Half)
  /-- A handler has read what it answers with: the frame builder, on this response row (R103). -/
  | build (response : Instr)
  /-- The handler has returned: the scanner's final `advance` (R100). -/
  | remove
  deriving DecidableEq, Repr

/-- The machine. INVENTORY.md lists every field with its rule and reset value. -/
structure State where
  /-- The build parameters (R4), which no step changes. -/
  params : Params
  /-- Input level `rst` (R10). -/
  rst : Bool
  /-- Input level `probeActive` (R10). -/
  probeActive : Bool
  /-- The channel register file (R13). -/
  ch : Vector Channel 4
  /-- R14. -/
  phase : Phase
  /-- The channel the next `ev_conv` is of (R15). -/
  chanIdx : BitVec 2
  /-- Samples of the current calibration modulo 4 (R16). -/
  calCycle : BitVec 2
  /-- The channel the sampler is armed to (R30). -/
  muxSel : BitVec 2
  /-- The sticky flag (R17). -/
  triggered : Bool
  /-- The sticky overflow bit (R18). -/
  txOverflow : Bool
  /-- The trigger output (R19). -/
  trigOut : Bool
  /-- Set while `Main` is in a critical section, and during boot (R20, R33). -/
  intMask : Bool
  /-- Set during the settle delay (R31). -/
  mainBusy : Bool
  /-- R21. -/
  settings : Settings
  /-- `cal.remainingSamples` (R23). -/
  calRemaining : Word
  /-- R24. -/
  debounce : Debounce
  /-- R26. -/
  clock : Clock
  /-- The receive ring (R27). -/
  rx : Ring
  /-- The transmit ring (R27). -/
  tx : Ring
  /-- The persistent block (R28), kept across reset. -/
  nv : Memory
  /-- `pend.tick` (R29). -/
  pendTick : Bool
  /-- `pend.conv` with its latch (R29). -/
  pendConv : Option Half
  /-- `pend.bus` with its latch (R29). -/
  pendBus : Option BusEvent
  /-- The model's own: the boot step `Main` is at (log 12). -/
  boot : BootStep
  /-- The model's own: the micro-step `Main` takes next (R52, log 11). -/
  micro : MicroStep
  /-- The model's own: `L + 5` of the good frame the scanner has found and not removed yet, else 0 (log 11). -/
  scanLen : Nat
  /-- The model's own: what the outside world does next (log 4). -/
  inputs : List Input
  /-- The model's own: the bytes `ev_txreq` has returned since reset, oldest first (R12, log 15). -/
  busRead : List Byte
  /-- The model's own: an `ev_buserr` has been served since reset (U5, log 9). -/
  busErr : Bool
  /-- The model's own: how many free values have been drawn (log 5). -/
  draws : Nat
  deriving DecidableEq, Repr

/-- Why the machine stops with a fault. -/
inductive Fault where
  /-- `Main` would move `rx.tail` past `rx.head`, which R86 and U4 place outside the rules. Raised when a frame is to
  be dispatched or removed and the ring does not hold it. Safe: no state that keeps the invariant of `Safety.lean` raises it, and
  the hardware has no such behaviour to compare (log 17). -/
  | advancePastHead
  deriving DecidableEq, Repr

/-- Why a step has no meaning. -/
inductive Refusal where
  /-- An instruction without a meaning yet; no arm of `exec` answers it. Safe. -/
  | notModelled (mnemonic : String)
  /-- A build parameter outside the constraint of R4, checked by every step. Safe (log 1). -/
  | badParameters
  /-- A second event of a source whose pending bit is set, which R247 and U7 exclude by a premise on the environment.
  Raised when `inputs` presents it. Safe (log 7). -/
  | eventOverrun
  /-- `ev_conv(raw)` with `raw >= 2^ADC_BITS`, which R11 and U9 exclude. Raised when `inputs` presents it. Safe (log 8). -/
  | rawOutOfRange
  deriving DecidableEq, Repr

/-- A channel at reset (R33): count 0, floats `+0.0`. -/
def Channel.zero : Channel := ⟨0, 0, 0, 0⟩

/-- DESIGN CHOICE (unsafe, log 2): the settings before boot loads them, which R33 leaves unspecified. -/
def Settings.zero : Settings := ⟨0, 0, 0, 0, 0⟩

/-- The empty ring at reset (R33). Its storage lists nothing (log 3). -/
def Ring.empty : Ring := ⟨[], 0, 0⟩

/-- The machine right after reset, at the release of `rst` (R33, column "at reset"; R230), with the build of
`Params.default` (log 1), unspecified settings zero (log 2), every byte space unlisted (log 3), and no input. -/
def State.reset : State where
  params := Params.default
  rst := false
  probeActive := false
  ch := #v[Channel.zero, Channel.zero, Channel.zero, Channel.zero]
  phase := .scan
  chanIdx := 0
  calCycle := 0
  muxSel := 0
  triggered := false
  txOverflow := false
  trigOut := false
  intMask := true
  mainBusy := false
  settings := Settings.zero
  calRemaining := 0
  debounce := ⟨0, 0⟩
  clock := ⟨0, 0, 0⟩
  rx := Ring.empty
  tx := Ring.empty
  nv := []
  pendTick := false
  pendConv := none
  pendBus := none
  boot := .b1
  micro := .phaseStep
  scanLen := 0
  inputs := []
  busRead := []
  busErr := false
  draws := 0

end Sys2Proof.Machine
end

