-- ==== Sys2Proof/Machine/Ops.lean ====
section
/-! DEFINITION. The named operations over memory, rings and registers (`20_memory.md`, `40_ringbuffer.md`), the critical
section, taking an interrupt and returning from one (R213, R214), and the frame builder (R103 to R105). -/
namespace Sys2Proof.Machine

/-! ## Byte spaces -/

/-- DESIGN CHOICE (unsafe, log 3): what a byte that nothing has written reads as, in all three spaces. -/
def Memory.unlisted : Byte := 0x00

/-- The canonical form from address `lo` on: addresses strictly rising, no pair equal to what an unlisted address reads
as. -/
def Memory.wfFrom : Nat → Memory → Bool
  | _, [] => true
  | lo, (a, v) :: m => decide (lo ≤ a) && decide (v ≠ Memory.unlisted) && Memory.wfFrom (a + 1) m

/-- The canonical form of a byte space. -/
def Memory.wf (m : Memory) : Bool := Memory.wfFrom 0 m

/-- Every listed address is below `n`. -/
def Memory.within (n : Nat) (m : Memory) : Bool := m.all fun c => decide (c.1 < n)

/-- The byte at an address. -/
def Memory.read : Memory → Nat → Byte
  | [], _ => Memory.unlisted
  | (x, v) :: m, a => if a = x then v else Memory.read m a

/-- Write one byte, keeping the canonical form. -/
def Memory.write : Memory → Nat → Byte → Memory
  | [], a, b => if b = Memory.unlisted then [] else [(a, b)]
  | (x, v) :: m, a, b =>
    if a < x then (if b = Memory.unlisted then (x, v) :: m else (a, b) :: (x, v) :: m)
    else if a = x then (if b = Memory.unlisted then m else (a, b) :: m)
    else (x, v) :: Memory.write m a b

/-- `MemWrite` of a byte sequence into a space of `cap` bytes, each address taken modulo `cap` (R40, R41). -/
def Memory.writeRun (cap : Nat) : Memory → Nat → List Byte → Memory
  | m, _, [] => m
  | m, a, b :: bs => Memory.writeRun cap (Memory.write m (a % cap) b) (a + 1) bs

/-- `MemRead` of `n` bytes from a space of `cap` bytes. -/
def Memory.readRun (cap : Nat) (m : Memory) (a n : Nat) : List Byte :=
  (List.range n).map fun i => Memory.read m ((a + i) % cap)

/-! ## The persistent store (R28, R57) -/

/-- The size of the persistent block (R44). -/
def nvBytes : Nat := 17

/-- `NvRead()`: the whole block, atomically. -/
def nvRead (s : State) : List Byte := Memory.readRun nvBytes s.nv 0 nvBytes

/-- `NvWrite(block)`: replaces the whole block, atomically; it never fails (R57). -/
def nvWrite (block : List Byte) (s : State) : State := { s with nv := Memory.writeRun nvBytes [] 0 block }

/-! ## Ring buffers (R80 to R89) -/

/-- `count(q)` (R81). -/
def Ring.count (cap : Nat) (q : Ring) : Nat := (q.head.toNat + cap - q.tail.toNat) % cap

/-- `free(q)` (R82). -/
def Ring.free (cap : Nat) (q : Ring) : Nat := cap - 1 - q.count cap

/-- `peek(q, i)` (R83); no byte outside its precondition `i < count(q)` (U4). -/
def Ring.peek (cap : Nat) (q : Ring) (i : Nat) : Option Byte :=
  if i < q.count cap then some (Memory.read q.storage ((q.tail.toNat + i) % cap)) else none

/-- The bytes held, oldest first (R80): what `peek` reads at the offsets below `count(q)`. -/
def Ring.held (cap : Nat) (q : Ring) : List Byte := Memory.readRun cap q.storage q.tail.toNat (q.count cap)

/-- An index moved on by `n` modulo the capacity (R89). -/
def Ring.moveIndex (cap : Nat) (i : Byte) (n : Nat) : Byte := BitVec.ofNat 8 ((i.toNat + n) % cap)

/-- The ring is full (R80). -/
def Ring.isFull (cap : Nat) (q : Ring) : Bool := decide ((q.head.toNat + 1) % cap = q.tail.toNat)

/-- The ring is empty (R80). -/
def Ring.isEmpty (q : Ring) : Bool := decide (q.head = q.tail)

/-- `enqueue(q, b)` (R84): none when the byte is dropped. Data before index (R53), in one atomic step. -/
def Ring.enqueue (cap : Nat) (q : Ring) (b : Byte) : Option Ring :=
  if q.isFull cap then none
  else some { q with storage := Memory.write q.storage (q.head.toNat % cap) b, head := Ring.moveIndex cap q.head 1 }

/-- `dequeue(q)` (R85): none when the ring is empty. -/
def Ring.dequeue (cap : Nat) (q : Ring) : Option (Byte × Ring) :=
  if q.isEmpty then none
  else some (Memory.read q.storage (q.tail.toNat % cap), { q with tail := Ring.moveIndex cap q.tail 1 })

/-- `advance(q, n)` (R86); no ring outside its precondition `n <= count(q)` (U4). -/
def Ring.advance (cap : Nat) (q : Ring) (n : Nat) : Option Ring :=
  if n ≤ q.count cap then some { q with tail := Ring.moveIndex cap q.tail n } else none

/-- `enqueueAll(q, B)` (R87): one publication of the head for the whole sequence; no ring outside its precondition
`n <= free(q)` (U4). -/
def Ring.enqueueAll (cap : Nat) (q : Ring) (bytes : List Byte) : Option Ring :=
  if bytes.length ≤ q.free cap then
    some { q with storage := Memory.writeRun cap q.storage q.head.toNat bytes,
                  head := Ring.moveIndex cap q.head bytes.length }
  else none

/-- The bytes the receive ring holds, oldest first. -/
def State.rxHeld (s : State) : List Byte := s.rx.held s.params.rxCap

/-- The bytes the transmit ring holds, oldest first. -/
def State.txHeld (s : State) : List Byte := s.tx.held s.params.txCap

/-! ## The channel register file (R13) -/

/-- The registers of channel `c`. -/
def State.chan (s : State) (c : BitVec 2) : Channel := s.ch[c.toNat]'(c.isLt)

/-- Write the registers of channel `c`. -/
def State.setChan (s : State) (c : BitVec 2) (x : Channel) : State := { s with ch := s.ch.set c.toNat x c.isLt }

/-- Write the registers of all four channels. -/
def mapChannels (f : Channel → Channel) (s : State) : State :=
  { s with ch := #v[f (s.chan 0), f (s.chan 1), f (s.chan 2), f (s.chan 3)] }

/-! ## The critical section (R50) -/

/-- `enter_critical()`. -/
def enterCritical (s : State) : State := { s with intMask := true }

/-- `leave_critical()`. -/
def leaveCritical (s : State) : State := { s with intMask := false }

/-- A span of `Main` inside a critical section: one atomic step with respect to the handlers (R50, R51). -/
def critical (body : State → State) (s : State) : State := leaveCritical (body (enterCritical s))

/-! ## Interrupts (R210 to R214) -/

/-- The pending bit of a handler agent's source (R29). -/
def pending (a : Agent) (s : State) : Bool :=
  match a with
  | .tick => s.pendTick
  | .conv => s.pendConv.isSome
  | .bus => s.pendBus.isSome
  | .main => false
  | .settle => false

/-- Taking an interrupt (R213): the handler's pending bit is cleared, and nothing is saved or changed beside it: no mode,
no saved program counter, no cause register. -/
def takeInterrupt (a : Agent) (s : State) : State :=
  match a with
  | .tick => { s with pendTick := false }
  | .conv => { s with pendConv := none }
  | .bus => { s with pendBus := none }
  | .main => s
  | .settle => s

/-- Returning from one (R214): `Main` resumes where it was, nothing is restored. -/
def returnFromInterrupt (s : State) : State := s

/-! ## Going on after a step -/

/-- Go on with `f` after a next state; a fault or a refusal stays. -/
def thenNext (o : Host.Outcome State Fault Refusal) (f : State → Host.Outcome State Fault Refusal) :
    Host.Outcome State Fault Refusal :=
  match o with
  | .next s => f s
  | .fault r => .fault r
  | .refused r => .refused r

/-- `advance(rx, n)` by the scanner. -/
def advanceRx (n : Nat) (s : State) : Host.Outcome State Fault Refusal :=
  match s.rx.advance s.params.rxCap n with
  | some q => .next { s with rx := q }
  | none => .fault .advancePastHead

/-! ## The frame builder (R103 to R105) -/

/-- `BuildFrame(op, P)`: the whole frame is committed, or, when it does not fit, no byte of it and `txOverflow` is set
(R104). -/
def buildFrame (op : Byte) (payload : List Byte) (s : State) : State :=
  match s.tx.enqueueAll s.params.txCap (encodeFrame op payload) with
  | some q => { s with tx := q }
  | none => { s with txOverflow := true }

end Sys2Proof.Machine
end

