-- ==== Sys2Proof/Machine/Bus.lean ====
section
/-! DEFINITION. The steps of agent `Bus` (`41_bus_transport.md`, R90 to R92). -/
namespace Sys2Proof.Machine

/-- `BusReceive` (R90): append the byte; on a full ring it is lost without a trace. -/
def busReceive (b : Byte) (s : State) : State :=
  match s.rx.enqueue s.params.rxCap b with
  | some q => { s with rx := q }
  | none => s

/-- The byte sent when the transmit ring is empty (R91). -/
def fillerByte : Byte := 0x00

/-- `BusTransmit` (R91): the oldest byte of the transmit ring, or the filler. The byte the master reads is the third
output of R12 and is appended to `busRead` (log 15). -/
def busTransmit (s : State) : State :=
  match s.tx.dequeue s.params.txCap with
  | some (b, q) => { s with tx := q, busRead := s.busRead ++ [b] }
  | none => { s with busRead := s.busRead ++ [fillerByte] }

/-- `BusError` (R92): no state of the block changes. `busErr` records for the model that from here on nothing forces
`Bus` to act (R205, U5, log 9). -/
def busError (s : State) : State := { s with busErr := true }

/-- The step of agent `Bus` for an event. -/
def busStep (e : BusEvent) (s : State) : State :=
  match e with
  | .rx b => busReceive b s
  | .txreq => busTransmit s
  | .buserr => busError s

end Sys2Proof.Machine
end

