-- ==== Sys2Proof/Machine/Operands.lean ====
section
/-! DEFINITION. The four operand forms of R67 (`30_encoding.md`) and the conversions between registers and payload
bytes (`45_commands.md`). -/
namespace Sys2Proof.Machine

/-- Operand form `u8` on input: the first payload byte, none when the payload is too short (R68, class (b)). Bytes after
it are ignored. -/
def operandU8 : List Byte → Option Byte
  | [] => none
  | b :: _ => some b

/-- Widening by zero extension, of `SetThreshold` (R5, R176). -/
def zext32 (b : Byte) : Word := b.setWidth 32

/-- Narrowing to the low byte, of `GetThreshold` (R5, R175). -/
def low8 (w : Word) : Byte := w.setWidth 8

/-- Operand form `pct` on input (R67): a byte above 100 is clamped to 100. -/
def clampPercent (b : Byte) : Nat := min b.toNat 100

/-- The coefficient a percentage stands for: `fdiv(u2f(q), 100.0)` (R188). -/
def percentToAlpha (q : Nat) : F32 := fdiv (u2f q) f32Hundred

/-- The percentage of a coefficient (R187): the integer part of `fadd(fmul(a, 100.0), 0.5)`, 0 when that is not
positive, 100 when it is 101 or more, 0 for a NaN. -/
def alphaToPercent (a : F32) : Byte :=
  if f32IsNaN a then 0
  else
    let r := fadd (fmul a f32Hundred) f32Half
    if fge f32Zero r then 0
    else if fge r f32HundredOne then 100
    else BitVec.ofNat 8 (f32IntPart r)

/-- `f2u16(a)` (R181): truncation toward zero, saturating at 0 and 65535, 0 for a NaN. -/
def f2u16 (a : F32) : Half :=
  if f32IsNaN a then 0
  else if fge f32Zero a then 0
  else if fge a f32MaxHalf then 65535
  else BitVec.ofNat 16 (f32IntPart a)

end Sys2Proof.Machine
end

