-- ==== Sys2Proof/Machine/Flags.lean ====
section
/-! DEFINITION. Every flag computation of the spec: the threshold test that sets `triggered` (R117), the fire condition
that sets `trigOut` (R130, R131), and the debounce expiry that clears it (R136, R137). -/
namespace Sys2Proof.Machine

/-- The threshold test (R117): strict. -/
def exceedsThreshold (deviation : F32) (threshold : Word) : Bool := fgt deviation (u2f threshold.toNat)

/-- The state Idle of the trigger controller (R25). -/
def isIdle (d : Debounce) : Bool := decide (d.counter = 0)

/-- The fire condition of `TriggerEvaluate`, mode by mode (R130, R131): the piezo part holds in Idle only (R132), the
probe part in either state (R133), modes 4 to 255 never fire. -/
def fireCondition (mode : Byte) (idle flag probe : Bool) : Bool :=
  let piezo := idle && flag
  match mode.toNat with
  | 0 => piezo && probe
  | 1 => piezo
  | 2 => probe
  | 3 => piezo || probe
  | _ => false

/-- The wraparound-safe expiry test (R136, R137): the difference modulo `2^32`, unsigned, not strict. -/
def debounceExpired (now : Word) (d : Debounce) : Bool :=
  decide (d.counter.toNat ≤ (now - d.startTime).toNat)

end Sys2Proof.Machine
end

