-- ==== Sys2Proof/Machine/Acquisition.lean ====
section
/-! DEFINITION. SignalAcquisition (`42_signal_acquisition.md`): the conversion step and StartCalibration. -/
namespace Sys2Proof.Machine

/-- The filter (R115), in the order of operations of R110. -/
def filterStep (average alpha : F32) (raw : Half) : F32 :=
  fadd (fmul average (fsub f32Unit alpha)) (fmul (u2f raw.toNat) alpha)

/-- The deviation (R116). -/
def deviationOf (average centerline : F32) : F32 := fabs (fsub average centerline)

/-- The part of `ConvComplete` before the modes: the raw sample is stored (R111), the round robin advances and the sampler
is armed two ahead of the channel read (R112). -/
def takeSample (raw : Half) (s : State) : State :=
  { s.setChan s.chanIdx { s.chan s.chanIdx with rawSample := raw } with
    chanIdx := s.chanIdx + 1
    muxSel := s.chanIdx + 2 }

/-- Armed mode for channel `c` (R115 to R117): the flag is set, never cleared. -/
def armedSample (c : BitVec 2) (raw : Half) (s : State) : State :=
  let average := filterStep (s.chan c).average s.settings.filterAlpha raw
  let deviation := deviationOf average (s.chan c).centerline
  { s.setChan c { s.chan c with average := average, deviation := deviation } with
    triggered := s.triggered || exceedsThreshold deviation s.settings.thresholdFactor }

/-- Finalisation (R120): each of the four accumulators divided by the configured count. -/
def finalizeCenterlines (s : State) : State :=
  mapChannels (fun x => { x with centerline := fdiv x.centerline (u2f s.settings.calibrationSampleCount.toNat) }) s

/-- Calibrating mode for channel `c`: accumulate (R118), count the cycle (R119), finalise at the last one (R120). -/
def calibratingSample (c : BitVec 2) (raw : Half) (s : State) : State :=
  let summed := { s.setChan c { s.chan c with centerline := fadd (s.chan c).centerline (u2f raw.toNat) } with
    calCycle := s.calCycle + 1 }
  if summed.calCycle = 0 then
    let counted := { summed with calRemaining := summed.calRemaining - 1 }
    if counted.calRemaining = 0 then finalizeCenterlines counted else counted
  else summed

/-- `ConvComplete(raw)`, the step of agent `Conv` (R110). -/
def convComplete (raw : Half) (s : State) : State :=
  let c := s.chanIdx
  let sampled := takeSample raw s
  if s.calRemaining = 0 then armedSample c raw sampled else calibratingSample c raw sampled

/-- The body of `StartCalibration` (R122), without the critical section around it: boot and opcode 0x08 run it under a
mask of their own (R184, R234). -/
def restartCalibration (s : State) : State :=
  { mapChannels (fun x => { x with centerline := f32Zero }) s with
    calCycle := 0
    calRemaining := s.settings.calibrationSampleCount }

/-- `StartCalibration` (R122). -/
def startCalibration (s : State) : State := critical restartCalibration s

end Sys2Proof.Machine
end

