-- ==== Sys2Proof/Machine/Settings.lean ====
section
/-! DEFINITION. SettingsStore (`44_clock_settings.md`, R156 to R161) and the layout of the persistent block (R43, R44). -/
namespace Sys2Proof.Machine

/-- A `u32` or a binary32 pattern as four bytes, least significant first (R43). -/
def le32Bytes (w : Word) : List Byte :=
  [w.extractLsb' 0 8, w.extractLsb' 8 8, w.extractLsb' 16 8, w.extractLsb' 24 8]

/-- Four bytes read as a `u32`, least significant first (R43). -/
def le32 (b0 b1 b2 b3 : Byte) : Word := b3 ++ b2 ++ b1 ++ b0

/-- Bytes 0 to 14 of the block (R44). -/
def settingsFields (t : Settings) : List Byte :=
  t.trigMode :: (le32Bytes t.thresholdFactor ++ le32Bytes t.filterAlpha ++ le32Bytes t.calibrationSampleCount ++
    le16Bytes t.debounceLengthMillis)

/-- `Pack(s)` (R156): the fields, their xor, and its complement (R157). -/
def packSettings (t : Settings) : List Byte :=
  settingsFields t ++ [xorAll (settingsFields t), ~~~ xorAll (settingsFields t)]

/-- `valid(B)` (R157): the two checksum bytes and nothing else. -/
def blockValid (block : List Byte) : Bool :=
  decide (block.getD 15 0 = xorAll (block.take 15)) && decide (block.getD 16 0 = ~~~ block.getD 15 0)

/-- `Unpack(B)` (R156): bytes 0 to 14, bytes 15 and 16 ignored. -/
def unpackSettings (block : List Byte) : Settings :=
  let b := fun i => block.getD i 0
  { trigMode := b 0
    thresholdFactor := le32 (b 1) (b 2) (b 3) (b 4)
    filterAlpha := le32 (b 5) (b 6) (b 7) (b 8)
    calibrationSampleCount := le32 (b 9) (b 10) (b 11) (b 12)
    debounceLengthMillis := le16 (b 13) (b 14) }

/-- The compiled defaults (R4, R159). -/
def defaultSettings (p : Params) : Settings :=
  { trigMode := p.defaultTrigMode
    thresholdFactor := p.defaultThreshold
    filterAlpha := p.defaultAlpha
    calibrationSampleCount := p.defaultCalSamples
    debounceLengthMillis := p.defaultDebounce }

/-- The five assignments of `SettingsDefaults` (R159), without the critical section around them: boot and opcode 0x08 run
them under a mask of their own (R184, R231). -/
def assignDefaults (s : State) : State := { s with settings := defaultSettings s.params }

/-- `SettingsDefaults` (R159). -/
def settingsDefaults (s : State) : State := critical assignDefaults s

/-- `SettingsSave` (R160) up to its settle delay, which `mainBusy` holds from here on until it has passed (log 10). -/
def settingsSave (s : State) : State := { nvWrite (packSettings s.settings) s with mainBusy := true }

/-- `SettingsLoad` (R158), run in boot with the interrupts masked, so that the defaults are assigned under that mask
(R231). -/
def settingsLoad (s : State) : State :=
  let block := nvRead s
  if blockValid block then { s with settings := unpackSettings block }
  else settingsSave (assignDefaults s)

end Sys2Proof.Machine
end

