-- ==== Sys2Proof/Machine/Commands.lean ====
section
/-! DEFINITION. The meanings of the twelve request frames: the dispatcher's handlers (`45_commands.md`, R170 to R188).
The scanner has checked sync, length and checksum; it removes the frame after the handler has returned (R99). A handler that
answers ends by handing its response to the frame builder, a micro-step of its own (R52). -/
namespace Sys2Proof.Machine

/-- One per-channel snapshot of opcodes 0x04 and 0x05 (R49, R180, R181): the wire value of channel `c`, and the state its
critical section leaves. -/
def snapChannel (kind : SnapKind) (c : BitVec 2) (s : State) : Half × State :=
  let entered := enterCritical s
  let v := match kind with
    | .values => (entered.chan c).rawSample
    | .averages => f2u16 (entered.chan c).average
  (v, leaveCritical entered)

/-- The first of the four critical sections of opcode 0x04 or 0x05; the rest are micro-steps of `Main` (R52, log 11). -/
def beginSnapshot (kind : SnapKind) (s : State) : State :=
  let first := snapChannel kind 0 s
  { first.2 with micro := .snapshot kind [first.1] }

/-- A handler calls `BuildFrame` with this response (R171): the frame builder is the next micro-step of `Main` (R52, log
11), and what it does is the meaning of the response row. -/
def answer (response : Instr) (s : State) : State := { s with micro := .build response }

/-- `GetIdAndVersion` (R174). -/
def execGetIdAndVersion (_payload : List Byte) (s : State) : Host.Outcome State Fault Refusal :=
  .next (answer (.getIdAndVersionResp s.params.boardId s.params.boardVersion) s)

/-- `GetThreshold` (R175): the low byte. -/
def execGetThreshold (_payload : List Byte) (s : State) : Host.Outcome State Fault Refusal :=
  .next (answer (.getThresholdResp (low8 s.settings.thresholdFactor)) s)

/-- `SetThreshold` (R176); a payload without a byte is class (b) and has no effect (R202). -/
def execSetThreshold (payload : List Byte) (s : State) : Host.Outcome State Fault Refusal :=
  match operandU8 payload with
  | some t => .next (critical (fun u => { u with settings := { u.settings with thresholdFactor := zext32 t } }) s)
  | none => .next s

/-- `ReadCurrentValues` (R180) up to its first preemption point: channel 0 is taken here, channels 1 to 3 and the
response in the micro-steps that follow (R49, R52, log 11). -/
def execReadCurrentValues (_payload : List Byte) (s : State) : Host.Outcome State Fault Refusal :=
  .next (beginSnapshot .values s)

/-- `ReadCurrentAverages` (R181) up to its first preemption point, as `ReadCurrentValues`. -/
def execReadCurrentAverages (_payload : List Byte) (s : State) : Host.Outcome State Fault Refusal :=
  .next (beginSnapshot .averages s)

/-- `SetTriggerMode` (R182): a byte above 3 is class (c) and is ignored (R74, R203); a payload without a byte is class
(b) (R202). The field is one byte and is written unmasked (R46). -/
def execSetTriggerMode (payload : List Byte) (s : State) : Host.Outcome State Fault Refusal :=
  match operandU8 payload with
  | some m => if m.toNat ≤ 3 then .next { s with settings := { s.settings with trigMode := m } } else .next s
  | none => .next s

/-- `GetTriggerMode` (R183). -/
def execGetTriggerMode (_payload : List Byte) (s : State) : Host.Outcome State Fault Refusal :=
  .next (answer (.getTriggerModeResp s.settings.trigMode) s)

/-- `Reset` (R184): the defaults and the restart of the calibration inside one critical section; `NV` is not written. -/
def execReset (_payload : List Byte) (s : State) : Host.Outcome State Fault Refusal :=
  .next (critical (fun u => restartCalibration (assignDefaults u)) s)

/-- `Recalibrate` (R185). -/
def execRecalibrate (_payload : List Byte) (s : State) : Host.Outcome State Fault Refusal :=
  .next (startCalibration s)

/-- `StoreSettings` (R186): `SettingsSave()`; the settle delay is the time `mainBusy` stays set, and the scanner removes
the request after it (R238, log 10). -/
def execStoreSettings (_payload : List Byte) (s : State) : Host.Outcome State Fault Refusal :=
  .next (settingsSave s)

/-- `GetAlpha` (R187). -/
def execGetAlpha (_payload : List Byte) (s : State) : Host.Outcome State Fault Refusal :=
  .next (answer (.getAlphaResp (alphaToPercent s.settings.filterAlpha)) s)

/-- `SetAlpha` (R188): a byte above 100 is class (c) and is clamped (R74, R203); a payload without a byte is class (b)
(R202). -/
def execSetAlpha (payload : List Byte) (s : State) : Host.Outcome State Fault Refusal :=
  match operandU8 payload with
  | some b =>
    .next (critical (fun u => { u with settings := { u.settings with filterAlpha := percentToAlpha (clampPercent b) } }) s)
  | none => .next s

end Sys2Proof.Machine
end

