-- ==== Sys2Proof/Machine/Responses.lean ====
section
/-! DEFINITION. The meanings of the six response frames: the block's own use of such a frame is to commit it to the
transmit ring (`41_bus_transport.md`, R103 to R105; log 14). The frame builder's micro-step of `Main` executes them. -/
namespace Sys2Proof.Machine

/-- The response of 0x01 (R174). -/
def execGetIdAndVersionResp (identifier : List Byte) (version : Byte) (s : State) : Host.Outcome State Fault Refusal :=
  .next (buildFrame 0x01 (identifier ++ [version]) s)

/-- The response of 0x02 (R175). -/
def execGetThresholdResp (threshold : Byte) (s : State) : Host.Outcome State Fault Refusal :=
  .next (buildFrame 0x02 [threshold] s)

/-- The response of 0x04 (R180). -/
def execReadCurrentValuesResp (raw0 raw1 raw2 raw3 : Half) (s : State) : Host.Outcome State Fault Refusal :=
  .next (buildFrame 0x04 (fourHalves raw0 raw1 raw2 raw3) s)

/-- The response of 0x05 (R181). -/
def execReadCurrentAveragesResp (avg0 avg1 avg2 avg3 : Half) (s : State) : Host.Outcome State Fault Refusal :=
  .next (buildFrame 0x05 (fourHalves avg0 avg1 avg2 avg3) s)

/-- The response of 0x07 (R183). -/
def execGetTriggerModeResp (mode : Byte) (s : State) : Host.Outcome State Fault Refusal :=
  .next (buildFrame 0x07 [mode] s)

/-- The response of 0x0B (R187). -/
def execGetAlphaResp (percent : Byte) (s : State) : Host.Outcome State Fault Refusal :=
  .next (buildFrame 0x0B [percent] s)

end Sys2Proof.Machine
end

