-- ==== Sys2Proof/Machine/Dispatch.lean ====
section
/-! DEFINITION. What each instruction does: one arm per row of the opcode table (R170, R171). -/
namespace Sys2Proof.Machine

def exec (i : Instr) (s : State) : Host.Outcome State Fault Refusal :=
  match i with
  | .getIdAndVersion payload => Sys2Proof.Machine.execGetIdAndVersion payload s
  | .getThreshold payload => Sys2Proof.Machine.execGetThreshold payload s
  | .setThreshold payload => Sys2Proof.Machine.execSetThreshold payload s
  | .readCurrentValues payload => Sys2Proof.Machine.execReadCurrentValues payload s
  | .readCurrentAverages payload => Sys2Proof.Machine.execReadCurrentAverages payload s
  | .setTriggerMode payload => Sys2Proof.Machine.execSetTriggerMode payload s
  | .getTriggerMode payload => Sys2Proof.Machine.execGetTriggerMode payload s
  | .reset payload => Sys2Proof.Machine.execReset payload s
  | .recalibrate payload => Sys2Proof.Machine.execRecalibrate payload s
  | .storeSettings payload => Sys2Proof.Machine.execStoreSettings payload s
  | .getAlpha payload => Sys2Proof.Machine.execGetAlpha payload s
  | .setAlpha payload => Sys2Proof.Machine.execSetAlpha payload s
  | .getIdAndVersionResp identifier version => Sys2Proof.Machine.execGetIdAndVersionResp identifier version s
  | .getThresholdResp threshold => Sys2Proof.Machine.execGetThresholdResp threshold s
  | .readCurrentValuesResp raw0 raw1 raw2 raw3 => Sys2Proof.Machine.execReadCurrentValuesResp raw0 raw1 raw2 raw3 s
  | .readCurrentAveragesResp avg0 avg1 avg2 avg3 => Sys2Proof.Machine.execReadCurrentAveragesResp avg0 avg1 avg2 avg3 s
  | .getTriggerModeResp mode => Sys2Proof.Machine.execGetTriggerModeResp mode s
  | .getAlphaResp percent => Sys2Proof.Machine.execGetAlphaResp percent s

end Sys2Proof.Machine
end

