-- ==== Sys2Proof/Machine/Clock.lean ====
section
/-! DEFINITION. SystemClock (`44_clock_settings.md`, R150 to R153). -/
namespace Sys2Proof.Machine

/-- `ClockTick`, the step of agent `Tick` (R150). -/
def clockTick (s : State) : State :=
  let f := s.clock.microFraction.toNat + s.params.tickFractInc
  let carry := decide (s.params.fractMax ≤ f)
  { s with clock := {
      millis := s.clock.millis + BitVec.ofNat 32 (s.params.tickMsInc + if carry then 1 else 0)
      microFraction := BitVec.ofNat 8 (if carry then f - s.params.fractMax else f)
      overflowCount := s.clock.overflowCount + 1 } }

/-- `ClockNow()` (R152): the snapshot of `millis`, and the state its critical section leaves. -/
def clockNow (s : State) : Word × State :=
  let entered := enterCritical s
  (entered.clock.millis, leaveCritical entered)

/-- The microsecond reading of R153, which nothing in the block uses. -/
def clockMicros (s : State) : Word := BitVec.ofNat 32 (s.clock.overflowCount.toNat * s.params.tickUs)

end Sys2Proof.Machine
end

