-- ==== Sys2Proof/Machine/Trigger.lean ====
section
/-! DEFINITION. The trigger controller (`43_trigger_debounce.md`). -/
namespace Sys2Proof.Machine

/-- `Fire()` (R134), in the source's order. -/
def fire (s : State) : State :=
  let high := { s with trigOut := true, triggered := false }
  let now := clockNow high
  { now.2 with debounce := { counter := high.settings.debounceLengthMillis, startTime := now.1 } }

/-- `TriggerEvaluate`, the Trigger phase (R130). -/
def triggerEvaluate (s : State) : State :=
  let fires := fireCondition s.settings.trigMode (isIdle s.debounce) s.triggered s.probeActive
  { (if fires then fire s else s) with phase := .debounce }

/-- `DebounceCheck`, the Debounce phase (R136); on expiry the output falls and the counter is cleared, `startTime` keeps
its value (R138). -/
def debounceCheck (s : State) : State :=
  let now := clockNow s
  let checked :=
    if debounceExpired now.1 s.debounce then
      { now.2 with trigOut := false, debounce := { s.debounce with counter := 0 } }
    else now.2
  { checked with phase := .scan }

end Sys2Proof.Machine
end

