-- ==== Sys2Proof/Machine/MainLoop.lean ====
section
/-! DEFINITION. Agent `Main`: the frame scanner (`41_bus_transport.md`, R93 to R100), the micro-steps of its handlers
(R49, R52, R238), the boot sequence (`70_reset_and_hazards.md`, R231 to R235) and the main loop (R236). -/
namespace Sys2Proof.Machine

/-- A frame start at the head of the bytes (R95): the sync, then a byte that is not 0xAA (R72). -/
def frameStart : List Byte → Bool
  | b0 :: b1 :: b2 :: b3 :: op :: _ => decide ([b0, b1, b2, b3] = syncBytes) && decide (op ≠ 0xAA)
  | _ => false

/-- How many noise bytes step S2 drops (R95): byte by byte while at least five bytes remain and no frame start is at the
head. -/
def noiseLen : List Byte → Nat
  | [] => 0
  | b :: bs => if bs.length < 4 || frameStart (b :: bs) then 0 else noiseLen bs + 1

/-- The rejections that are a framing error of steps S4 and S5 (R97); the others make the scanner wait (R96). -/
def isFramingError : Reject → Bool
  | .lengthTooSmall => true
  | .lengthTooLarge => true
  | .badChecksum => true
  | .incomplete => false
  | .badSync => false
  | .syncByteAsOpcode => false
  | .unknownOpcode _ => false
  | .shortResponse _ => false

/-- The end of the Scan phase: `phase <- Trigger` (R94). -/
def endScan (s : State) : Host.Outcome State Fault Refusal := .next { s with phase := .trigger }

/-- `ScanFrame`, the Scan phase (R94), on the bytes held when it starts, up to the dispatcher call (R52). A good frame stays
in the ring (R99): `scanLen` holds its length, and the dispatcher is the next micro-step. -/
def scanFrame (s : State) : Host.Outcome State Fault Refusal :=
  let bytes := s.rxHeld
  let noise := noiseLen bytes
  thenNext (advanceRx noise s) fun found =>
    match parseFrame (s.params.rxCap - 1) (bytes.drop noise) with
    | .ok (_, payload) => .next { found with micro := .dispatch, scanLen := payload.length + 7 }
    | .error r => if isFramingError r then thenNext (advanceRx 4 found) endScan else endScan found

/-- The opcode byte of the frame at the tail, read in place (R99). -/
def frameOpcode (s : State) : Byte := s.rxHeld.getD 4 0x00

/-- The payload window of the frame at the tail, offsets 6 to `L + 3`, read in place (R99). -/
def framePayload (s : State) : List Byte := (s.rxHeld.drop 6).take (s.scanLen - 7)

/-- `Dispatch` on the good frame at the tail (R170): the handler runs, and when it has returned the frame is removed. An
opcode without a row has no effect (R71). -/
def dispatchFrame (s : State) : Host.Outcome State Fault Refusal :=
  if s.scanLen ≤ s.rx.count s.params.rxCap then
    match requestOf (frameOpcode s) (framePayload s) with
    | .ok i => exec i { s with micro := .remove }
    | .error _ => .next { s with micro := .remove }
  else .fault .advancePastHead

/-- One more critical section of opcode 0x04 or 0x05 (R49); after the fourth the handler calls the frame builder with the
four values. -/
def snapshotStep (kind : SnapKind) (taken : List Half) (s : State) : Host.Outcome State Fault Refusal :=
  let next := snapChannel kind (BitVec.ofNat 2 taken.length) s
  match kind, taken ++ [next.1] with
  | .values, [v0, v1, v2, v3] => .next (answer (.readCurrentValuesResp v0 v1 v2 v3) next.2)
  | .averages, [v0, v1, v2, v3] => .next (answer (.readCurrentAveragesResp v0 v1 v2 v3) next.2)
  | kind, taken => .next { next.2 with micro := .snapshot kind taken }

/-- The frame builder (R103 to R105): the meaning of the response row; then the handler returns. -/
def buildStep (response : Instr) (s : State) : Host.Outcome State Fault Refusal := exec response { s with micro := .remove }

/-- The removal of a dispatched frame, once its handler has returned (R100): a step of its own (R52), so that `Bus` may
append to the ring before the frame's slots are free (R99). -/
def removeFrame (s : State) : Host.Outcome State Fault Refusal :=
  thenNext (advanceRx s.scanLen s) fun t => endScan { t with micro := .phaseStep, scanLen := 0 }

/-- The settle delay is over (R160): `mainBusy` falls. In the main loop `Main` then removes the request (R238). -/
def settleDone (s : State) : Host.Outcome State Fault Refusal := .next { s with mainBusy := false }

/-- The phase step of the main loop (R236). -/
def phaseStep (s : State) : Host.Outcome State Fault Refusal :=
  match s.phase with
  | .scan => scanFrame s
  | .trigger => .next (triggerEvaluate s)
  | .debounce => .next (debounceCheck s)

/-- The step of agent `Main`: boot B1 to B4 with the interrupts masked (R231), then the main loop. B1 configures the
collaborators and changes no state of the block (R232); B4 unmasks (R235). In the main loop the micro-steps of
R52 on a frame come before the next phase. -/
def mainStep (s : State) : Host.Outcome State Fault Refusal :=
  match s.boot with
  | .b1 => .next { s with boot := .b2 }
  | .b2 => .next { settingsLoad s with boot := .b3 }
  | .b3 => .next { restartCalibration s with boot := .b4 }
  | .b4 => .next { s with intMask := false, boot := .done }
  | .done =>
    match s.micro with
    | .phaseStep => phaseStep s
    | .dispatch => dispatchFrame s
    | .snapshot kind taken => snapshotStep kind taken s
    | .build response => buildStep response s
    | .remove => removeFrame s

end Sys2Proof.Machine
end

