-- ==== Sys2Proof/Machine/Environment.lean ====
section
/-! DEFINITION. What the outside world does to the block (R10, R11, R230) and which agent steps (R29, R51, R212). -/
namespace Sys2Proof.Machine

/-! ## Events and levels -/

/-- `ev_tick` arrives (R11, R29). While `rst` is asserted it is discarded (R230). -/
def arriveTick (s : State) : Host.Outcome State Fault Refusal :=
  if s.rst then .next s
  else if s.pendTick then .refused .eventOverrun
  else .next { s with pendTick := true }

/-- `ev_conv(raw)` arrives; `raw` is latched (R29). -/
def arriveConv (raw : Half) (s : State) : Host.Outcome State Fault Refusal :=
  if s.rst then .next s
  else if 2 ^ s.params.adcBits ≤ raw.toNat then .refused .rawOutOfRange
  else if s.pendConv.isSome then .refused .eventOverrun
  else .next { s with pendConv := some raw }

/-- A bus byte event arrives; its kind and byte are latched (R29). After a bus-level error the latch may be occupied by an
event that `Bus` will never serve (U5); then a free value decides which of the two events is lost (log 9). -/
def arriveBus (e : BusEvent) (s : State) : Host.Outcome State Fault Refusal :=
  if s.rst then .next s
  else
    match s.pendBus with
    | none => .next { s with pendBus := some e }
    | some old =>
      if s.busErr then
        .next { s with pendBus := some (if Config.freeBool s.draws then e else old), draws := s.draws + 1 }
      else .refused .eventOverrun

/-- Free settings for draw `n` (R33, U2). -/
def freeSettings (n : Nat) : Settings :=
  { trigMode := low8 (Config.freeSetting n 0)
    thresholdFactor := Config.freeSetting n 1
    filterAlpha := Config.freeSetting n 2
    calibrationSampleCount := Config.freeSetting n 3
    debounceLengthMillis := (Config.freeSetting n 4).setWidth 16 }

/-- An empty ring with free storage for draw `n` (R33, U1). -/
def freeRing (cap n : Nat) (transmit : Bool) : Ring :=
  { Ring.empty with storage := Memory.writeRun cap [] 0 ((List.range cap).map (Config.freeCell n transmit)) }

/-- `rst` is asserted (R230): every piece of state takes its "at reset" value of R33; the persistent block, the build, the
probe level and what the outside world does next are not the block's and stay. -/
def holdReset (s : State) : State :=
  { State.reset with
    params := s.params
    rst := true
    probeActive := s.probeActive
    settings := freeSettings s.draws
    rx := freeRing s.params.rxCap s.draws false
    tx := freeRing s.params.txCap s.draws true
    nv := s.nv
    inputs := s.inputs
    draws := s.draws + 1 }

/-! ## Agents -/

/-- An agent is enabled: a handler when its pending bit is set and the interrupts are not masked (R29), `Main` unless it
is in the settle delay (R31, R236), the end of the delay when it is running; nobody while `rst` is asserted (R230).
Handlers are atomic, so "no other handler is running" holds between steps. -/
def enabled (a : Agent) (s : State) : Bool :=
  !s.rst && match a with
    | .tick => s.pendTick && !s.intMask
    | .conv => s.pendConv.isSome && !s.intMask
    | .bus => s.pendBus.isSome && !s.intMask
    | .main => !s.mainBusy
    | .settle => s.mainBusy

/-- One run of the `Tick` handler (R150, R213, R214). -/
def serveTick (s : State) : State := returnFromInterrupt (clockTick (takeInterrupt .tick s))

/-- One run of the `Conv` handler (R110). -/
def serveConv (s : State) : State :=
  match s.pendConv with
  | some raw => returnFromInterrupt (convComplete raw (takeInterrupt .conv s))
  | none => s

/-- One run of the `Bus` handler (R90 to R92). -/
def serveBus (s : State) : State :=
  match s.pendBus with
  | some e => returnFromInterrupt (busStep e (takeInterrupt .bus s))
  | none => s

/-- `Bus` is let step: after a bus-level error a free value decides whether it acts (R205, R250, U5; log 9). -/
def tryBus (s : State) : State :=
  if s.busErr then
    (if Config.freeBool s.draws then serveBus { s with draws := s.draws + 1 } else { s with draws := s.draws + 1 })
  else serveBus s

/-- The step of an enabled agent. -/
def agentStep (a : Agent) (s : State) : Host.Outcome State Fault Refusal :=
  match a with
  | .tick => .next (serveTick s)
  | .conv => .next (serveConv s)
  | .bus => .next (tryBus s)
  | .main => mainStep s
  | .settle => settleDone s

/-- An agent is let step; one that is not enabled does nothing. -/
def runAgent (a : Agent) (s : State) : Host.Outcome State Fault Refusal :=
  if enabled a s then agentStep a s else .next s

/-- The agents enabled now. -/
def enabledAgents (s : State) : List Agent :=
  [Agent.tick, Agent.conv, Agent.bus, Agent.main, Agent.settle].filter fun a => enabled a s

/-- With no input left: the one enabled agent steps; of several, a free value picks (R212, U8; log 4). -/
def freeSchedule (s : State) : Host.Outcome State Fault Refusal :=
  match enabledAgents s with
  | [] => .next s
  | [a] => runAgent a s
  | several =>
    runAgent (several.getD (Config.freeChoice s.draws % several.length) .main) { s with draws := s.draws + 1 }

/-- What one item of `inputs` does, the item already taken off the list. -/
def applyInput (i : Input) (s : State) : Host.Outcome State Fault Refusal :=
  match i with
  | .tick => arriveTick s
  | .conv raw => arriveConv raw s
  | .bus e => arriveBus e s
  | .probe active => .next { s with probeActive := active }
  | .assertReset => .next (if s.rst then s else holdReset s)
  | .releaseReset => .next { s with rst := false }
  | .run a => runAgent a s

/-- One step of the machine: the build parameters are checked (R4), then the next input acts, or, with none left, an
agent steps. -/
def stepOnce (s : State) : Host.Outcome State Fault Refusal :=
  if s.params.ok then
    match s.inputs with
    | i :: rest => applyInput i { s with inputs := rest }
    | [] => freeSchedule s
  else .refused .badParameters

/-! ## Placing a frame where the next step dispatches it (log 13) -/

/-- The receive ring holding these bytes from slot 0 on, for a ring that held nothing. DESIGN CHOICE (log 13): the spec has
no operation that places a table word, so what placing `CAP` or more bytes leaves is the model's: the first `CAP - 1` bytes are
held and the rest dropped, as `enqueue` on a full ring drops them (R84), so that both indices stay below `CAP` (R89). -/
def ringOf (cap : Nat) (bytes : List Byte) : Ring :=
  let kept := bytes.take (cap - 1)
  { storage := Memory.writeRun cap [] 0 kept, head := BitVec.ofNat 8 kept.length, tail := 0 }

/-- `s` with these bytes in the receive ring, boot over and nothing pending. If they start with a good frame that the ring
can hold, `Main` is about to dispatch it; else it is about to take the Scan phase. -/
def placeBytes (bytes : List Byte) (s : State) : State :=
  let found := parseFrame (s.params.rxCap - 1) bytes
  { s with
    rst := false
    boot := .done
    phase := .scan
    intMask := false
    mainBusy := false
    pendTick := false
    pendConv := none
    pendBus := none
    micro := match found with
      | .ok _ => .dispatch
      | .error _ => .phaseStep
    scanLen := match found with
      | .ok (_, payload) => payload.length + 7
      | .error _ => 0
    inputs := []
    rx := ringOf s.params.rxCap bytes }

end Sys2Proof.Machine
end

