-- ==== Sys2Proof/Machine/Step.lean ====
section
/-! DEFINITION. One step of the machine, and a table word stored where the next step dispatches it. -/
namespace Sys2Proof.Machine

/-- One step (`stepOnce` of `Environment.lean`). -/
def step (s : State) : Host.Outcome State Fault Refusal := stepOnce s

/-- `s` with the frame of a table word in the receive ring and `Main` about to dispatch it (log 13). -/
def State.withFetchWord (s : State) (nbits w : Nat) : State := placeBytes (tableWordBytes nbits w) s

end Sys2Proof.Machine
end

