-- ==== Sys2Proof/Machine/Errors.lean ====
section
/-! DEFINITION. The error classes of `60_exceptions.md` (R200 to R207) as labels on a step: `raise X` changes no state, so
the classes are computed from the state a step starts in (log 16). -/
namespace Sys2Proof.Machine

/-- The five classes of the source and the spec's sixth (R200). -/
inductive ErrorClass where
  /-- (a), R201. -/
  | framingError
  /-- (b), R202. -/
  | malformedPayload
  /-- (c), R203. -/
  | invalidFieldValue
  /-- (d), R204. -/
  | settingsChecksumError
  /-- (e), R205. -/
  | busLevelError
  /-- R206. -/
  | txOverflow
  deriving DecidableEq, Repr

/-- `TxOverflow` when a response of this payload does not fit (R104, R206). -/
def buildErrors (payload : List Byte) (s : State) : List ErrorClass :=
  if s.tx.free s.params.txCap < payload.length + 7 then [.txOverflow] else []

/-- What the meaning of an instruction raises (R207): the payload's length is checked before the field's value. A handler
that answers raises nothing itself; the frame builder does, on the response row. -/
def handlerErrors (i : Instr) (s : State) : List ErrorClass :=
  match i with
  | .getIdAndVersion _ => []
  | .getThreshold _ => []
  | .setThreshold p => if p.length = 0 then [.malformedPayload] else []
  | .readCurrentValues _ => []
  | .readCurrentAverages _ => []
  | .setTriggerMode p =>
    match operandU8 p with
    | none => [.malformedPayload]
    | some m => if m.toNat ≤ 3 then [] else [.invalidFieldValue]
  | .getTriggerMode _ => []
  | .reset _ => []
  | .recalibrate _ => []
  | .storeSettings _ => []
  | .getAlpha _ => []
  | .setAlpha p =>
    match operandU8 p with
    | none => [.malformedPayload]
    | some b => if b.toNat ≤ 100 then [] else [.invalidFieldValue]
  | .getIdAndVersionResp identifier version => buildErrors (identifier ++ [version]) s
  | .getThresholdResp threshold => buildErrors [threshold] s
  | .readCurrentValuesResp raw0 raw1 raw2 raw3 => buildErrors (fourHalves raw0 raw1 raw2 raw3) s
  | .readCurrentAveragesResp avg0 avg1 avg2 avg3 => buildErrors (fourHalves avg0 avg1 avg2 avg3) s
  | .getTriggerModeResp mode => buildErrors [mode] s
  | .getAlphaResp percent => buildErrors [percent] s

/-- What the scanner raises (R201): a framing error of steps S4 and S5. -/
def scanErrors (s : State) : List ErrorClass :=
  match parseFrame (s.params.rxCap - 1) (s.rxHeld.drop (noiseLen s.rxHeld)) with
  | .ok _ => []
  | .error r => if isFramingError r then [.framingError] else []

/-- What the dispatcher raises on the frame at the tail. -/
def dispatchErrors (s : State) : List ErrorClass :=
  match requestOf (frameOpcode s) (framePayload s) with
  | .ok i => handlerErrors i s
  | .error _ => []

/-- What a micro-step of the main loop raises. -/
def loopErrors (s : State) : List ErrorClass :=
  match s.micro with
  | .phaseStep => if s.phase = .scan then scanErrors s else []
  | .dispatch => dispatchErrors s
  | .snapshot _ _ => []
  | .build response => handlerErrors response s
  | .remove => []

/-- What a step of `Main` raises: in boot only `SettingsChecksumError`, in step B2 (R204). -/
def mainErrors (s : State) : List ErrorClass :=
  match s.boot with
  | .b1 => []
  | .b2 => if blockValid (nvRead s) then [] else [.settingsChecksumError]
  | .b3 => []
  | .b4 => []
  | .done => loopErrors s

/-- What letting an agent step raises; nothing when it is not enabled. A `Bus` that a free value keeps stuck after a
bus-level error runs no `BusError` and raises nothing: the spec leaves the stuck `Bus` without a step to label, and this is
the model's choice (U5, log 9). -/
def agentErrors (a : Agent) (s : State) : List ErrorClass :=
  if enabled a s then
    match a with
    | .tick => []
    | .conv => []
    | .bus => if s.pendBus = some .buserr ∧ (s.busErr = false ∨ Config.freeBool s.draws = true) then [.busLevelError] else []
    | .main => mainErrors s
    | .settle => []
  else []

end Sys2Proof.Machine
end

