-- ==== Sys2Proof/Safety.lean ====
section
/-! DEFINITION. What counts as a good state and a safe run, in the terms the statements use. -/
namespace Sys2Proof.Machine

/-- A ring's indices are below its capacity (R80, R89) and its storage is canonical and inside its byte space (R40). -/
structure RingOk (cap : Nat) (q : Ring) : Prop where
  head : q.head.toNat < cap
  tail : q.tail.toNat < cap
  canonical : Memory.wf q.storage = true
  inside : Memory.within cap q.storage = true

/-- The good frame of `scanLen` bytes that the scanner found is at the tail of the receive ring (R99). -/
structure FrameHeld (s : State) : Prop where
  phase : s.phase = .scan
  atLeast : 7 ≤ s.scanLen
  buffered : s.scanLen ≤ s.rx.count s.params.rxCap

/-- The invariant of the machine: true at reset, kept by every step. -/
structure Invariant (s : State) : Prop where
  /-- The constraints of R4. -/
  params : s.params.ok = true
  /-- R27, R40, R80, R89. -/
  rx : RingOk s.params.rxCap s.rx
  /-- R27, R40, R80, R89. -/
  tx : RingOk s.params.txCap s.tx
  /-- The persistent block's byte space is canonical and has 17 bytes (R40). -/
  nvCanonical : Memory.wf s.nv = true
  nvInside : Memory.within nvBytes s.nv = true
  /-- A stored raw sample is below `2^ADC_BITS` (R13). -/
  raw : ∀ c : BitVec 2, (s.chan c).rawSample.toNat < 2 ^ s.params.adcBits
  /-- So is a latched one (R11). -/
  latch : ∀ raw ∈ s.pendConv, raw.toNat < 2 ^ s.params.adcBits
  /-- `clock.microFraction < FRACT_MAX` (R26). -/
  fraction : s.clock.microFraction.toNat < s.params.fractMax
  /-- Between steps the interrupts are masked exactly during boot (R33, R50, R231). -/
  mask : s.intMask = true ↔ s.boot ≠ .done
  /-- `trigOut` is 1 whenever the trigger controller is Asserted (R25). -/
  asserted : s.debounce.counter ≠ 0 → s.trigOut = true
  /-- `trigOut` is 1 in Idle only between a fire action and the next Debounce phase (R25, R139). -/
  pulse : s.trigOut = true → s.debounce.counter = 0 → s.phase = .debounce
  /-- During boot the main loop has not started (R231). -/
  booting : s.boot ≠ .done → s.phase = .scan ∧ s.micro = .phaseStep
  /-- While `Main` is between the micro-steps of a frame, the frame is in the receive ring (R99). -/
  held : s.micro ≠ .phaseStep → FrameHeld s
  /-- Otherwise no frame has been found. -/
  resting : s.micro = .phaseStep → s.scanLen = 0
  /-- A snapshot in progress has taken one to three values (R49). -/
  snapshot : ∀ kind taken, s.micro = .snapshot kind taken → 1 ≤ taken.length ∧ taken.length ≤ 3
  /-- What the frame builder is called with is a response row (R171). -/
  building : ∀ response, s.micro = .build response → response.isRequest = false
  /-- During the settle delay of opcode 0x0A the request is in the ring, to be removed next (R238). -/
  settling : s.mainBusy = true → s.boot = .done → s.micro = .remove

/-- `Main` may take a step of the main loop: boot is over, no settle delay, `rst` released. -/
structure MainRuns (s : State) : Prop where
  rst : s.rst = false
  boot : s.boot = .done
  idle : s.mainBusy = false

/-- `Main` stands between two phase steps of the main loop, with nothing of a frame in progress. -/
structure MainReady (s : State) : Prop extends MainRuns s where
  between : s.micro = .phaseStep

/-- The fault bit of R206 is clear: no response has been lost since reset. -/
def noResponseLost (s : State) : Prop := s.txOverflow = false

/-- `Main` takes `n` steps and no other agent takes one between them. -/
def mainSteps : Nat → State → Host.Outcome State Fault Refusal
  | 0, s => .next s
  | n + 1, s => thenNext (runAgent .main s) (mainSteps n)

/-- A sequence of conversion events served one after the other (R110). -/
def convMany : List Half → State → State
  | [], s => s
  | raw :: raws, s => convMany raws (convComplete raw s)

/-- A finite value that is not negative (R125). -/
def f32FiniteNonneg (a : F32) : Prop := f32Neg a = false ∧ f32Mag a < f32InfMag

/-- Every float register of the channel file is finite and not negative (R125). -/
def floatsTame (s : State) : Prop :=
  ∀ c : BitVec 2, f32FiniteNonneg (s.chan c).average ∧ f32FiniteNonneg (s.chan c).deviation ∧
    f32FiniteNonneg (s.chan c).centerline

/-- A coefficient with `0 <= alpha <= 1` (R4, R125): the patterns up to that of 1.0, and `-0.0`. -/
def alphaInRange (a : F32) : Prop := a.toNat ≤ 0x3F800000 ∨ a.toNat = 0x80000000

/-- What keeps the float registers tame in every run (R125), with the premise of U6 on the persistent block. Until boot step
B2 has loaded the settings their coefficient is unspecified (R33), and no conversion is served. -/
structure FloatSafe (s : State) : Prop where
  /-- Every float register is finite and not negative. -/
  floats : floatsTame s
  /-- The coefficient is in range from boot step B3 on. -/
  alpha : s.boot ≠ .b1 → s.boot ≠ .b2 → alphaInRange s.settings.filterAlpha
  /-- U6: a valid persistent block has its coefficient in range. -/
  stored : blockValid (nvRead s) = true → alphaInRange (unpackSettings (nvRead s)).filterAlpha
  /-- A calibration runs after boot step B3 only, and its count is not 0 (R120). -/
  counting : s.calRemaining ≠ 0 → (s.boot = .b4 ∨ s.boot = .done) ∧ s.settings.calibrationSampleCount ≠ 0

/-- One call on a ring (R88). -/
inductive FifoCall where
  | enqueue (b : Byte)
  | dequeue
  deriving DecidableEq, Repr

/-- A sequence of calls on a ring: the bytes whose `enqueue` was accepted, the bytes `dequeue` returned, the ring. -/
def fifoRun (cap : Nat) : List FifoCall → Ring → List Byte × List Byte × Ring
  | [], q => ([], [], q)
  | .enqueue b :: calls, q =>
    match q.enqueue cap b with
    | some q' => let r := fifoRun cap calls q'; (b :: r.1, r.2.1, r.2.2)
    | none => fifoRun cap calls q
  | .dequeue :: calls, q =>
    match q.dequeue cap with
    | some (b, q') => let r := fifoRun cap calls q'; (r.1, b :: r.2.1, r.2.2)
    | none => fifoRun cap calls q

/-- A machine at the release of `rst` (R33, column "at reset"), with any build, persistent block, unspecified settings
and unspecified ring storage. -/
def atReset (p : Params) (nv : Memory) (unspecified : Settings) (rxStorage txStorage : Memory) : State :=
  { State.reset with
    params := p
    nv := nv
    settings := unspecified
    rx := { Ring.empty with storage := rxStorage }
    tx := { Ring.empty with storage := txStorage } }

end Sys2Proof.Machine
end

