-- ==== Sys2Proof/Certificates/Slice0/Obligations.lean ====
section
/-! DEFINITION. The statements for the provers, in the order of OBLIGATIONS.json. -/
open Sys2Proof Sys2Proof.Machine

/-! ## Frames -/

/-- R66, R70: the block's decoder reads back every well-formed request, payload and all. -/
def Obligations.DecodeEncodeAgreesOnRequests : Prop :=
  ∀ i : Instr, i.wellFormed = true → i.isRequest = true → decode (encode i) = .ok i

/-- R64, R70: the master's decoder reads back every well-formed response. -/
def Obligations.DecodeEncodeAgreesOnResponses : Prop :=
  ∀ i : Instr, i.wellFormed = true → i.isRequest = false → decodeResponse (encode i) = .ok i

/-- R66: exactly when `Decode` succeeds and with what, and the round trip through `Encode`. -/
def Obligations.ParseFrameIsDecode : Prop :=
  (∀ (F : List Byte) (op : Byte) (P : List Byte), 7 ≤ F.length →
    (parseFrame maxFrameBytes F = .ok (op, P) ↔
      F.take 4 = syncBytes ∧ F[4]? = some op ∧ op ≠ 0xAA ∧
        ∃ len : Byte, F[5]? = some len ∧ 2 ≤ len.toNat ∧ len.toNat + 5 ≤ F.length ∧
          xorAll ((F.drop 4).take (len.toNat + 1)) = 0x00 ∧ P = (F.drop 6).take (len.toNat - 2))) ∧
  (∀ (op : Byte) (P : List Byte), op ≠ 0xAA → P.length ≤ 253 →
    parseFrame maxFrameBytes (encodeFrame op P) = .ok (op, P))

/-- R63, R65: the length and the bytes of an encoded frame; its checksum makes the xor from the opcode on zero, and is
`opcode xor 2` without a payload. -/
def Obligations.EncodedFrameHasZeroXor : Prop :=
  (∀ (op : Byte) (P : List Byte), P.length ≤ 253 →
    (encodeFrame op P).length = P.length + 7 ∧ (encodeFrame op P).take 4 = syncBytes ∧
    (encodeFrame op P)[4]? = some op ∧ (encodeFrame op P)[5]? = some (BitVec.ofNat 8 (P.length + 2)) ∧
    ((encodeFrame op P).drop 6).take P.length = P ∧
    (encodeFrame op P)[P.length + 6]? = some (op ^^^ BitVec.ofNat 8 (P.length + 2) ^^^ xorAll P) ∧
    xorAll ((encodeFrame op P).drop 4) = 0x00) ∧
  (∀ op : Byte, (encodeFrame op [])[6]? = some (op ^^^ 2))

/-- Sanity: words written out from the spec's encodings decode to the instructions they stand for. -/
def Obligations.SpecWordsDecode : Prop :=
  decode [0xAA, 0x55, 0xAA, 0x55, 0x03, 0x03, 0x07, 0x07] = .ok (.setThreshold [0x07]) ∧
  decode [0xAA, 0x55, 0xAA, 0x55, 0x07, 0x02, 0x05] = .ok (.getTriggerMode []) ∧
  decode [0xAA, 0x55, 0xAA, 0x55, 0x0C, 0x03, 0xFF, 0xF0] = .ok (.setAlpha [0xFF]) ∧
  decodeResponse [0xAA, 0x55, 0xAA, 0x55, 0x04, 0x0A, 0x00, 0x02, 0xFF, 0x01, 0x00, 0x00, 0xFF, 0x03, 0x0E] =
    .ok (.readCurrentValuesResp 0x0200 0x01FF 0x0000 0x03FF)

/-- R101 (3): a frame in which one byte other than the length byte is changed is no frame. -/
def Obligations.SingleByteDamageIsRejected : Prop :=
  ∀ (op : Byte) (P : List Byte) (k : Nat) (b : Byte), op ≠ 0xAA → P.length ≤ 253 → k < P.length + 7 → k ≠ 5 →
    (encodeFrame op P)[k]? ≠ some b →
    ∀ r, parseFrame maxFrameBytes ((encodeFrame op P).set k b) ≠ .ok r

/-! ## The scanner -/

/-- R95, R101 (1): bytes in front of a frame start that contain no frame start are all dropped, and nothing else is. -/
def Obligations.NoiseBeforeAFrameStartIsDropped : Prop :=
  ∀ (noise rest : List Byte), frameStart rest = true →
    (∀ k, k < noise.length → frameStart ((noise ++ rest).drop k) = false) →
    noiseLen (noise ++ rest) = noise.length

/-- R95: with no frame start anywhere, exactly four bytes are kept. -/
def Obligations.FourBytesAreKeptOfNoise : Prop :=
  ∀ bytes : List Byte, (∀ k, k < bytes.length → frameStart (bytes.drop k) = false) →
    noiseLen bytes = bytes.length - 4

/-- R97: a framing error removes the noise and the four sync bytes, nothing else changes but the phase. -/
def Obligations.FramingErrorDropsTheSync : Prop :=
  ∀ (s : State) (r : Reject), Invariant s → MainReady s → s.phase = .scan →
    parseFrame (s.params.rxCap - 1) (s.rxHeld.drop (noiseLen s.rxHeld)) = .error r → isFramingError r = true →
    ∃ t, runAgent .main s = .next t ∧ t.rxHeld = s.rxHeld.drop (noiseLen s.rxHeld + 4) ∧
      t.rx.head = s.rx.head ∧ t.rx.storage = s.rx.storage ∧ t = { s with rx := t.rx, phase := .trigger }

/-- R94, R95, R96: whenever the bytes after the noise are no whole frame and no framing error (too few bytes, no frame start,
or a frame still arriving, with or without noise in front), exactly the noise is removed and nothing else changes but the
phase; with a frame start at the tail that is nothing at all. -/
def Obligations.ScannerWaitsForTheRest : Prop :=
  (∀ (s : State) (r : Reject), Invariant s → MainReady s → s.phase = .scan →
    parseFrame (s.params.rxCap - 1) (s.rxHeld.drop (noiseLen s.rxHeld)) = .error r → isFramingError r = false →
    ∃ t, runAgent .main s = .next t ∧ t.rxHeld = s.rxHeld.drop (noiseLen s.rxHeld) ∧
      t.rx.head = s.rx.head ∧ t.rx.storage = s.rx.storage ∧ t = { s with rx := t.rx, phase := .trigger }) ∧
  ∀ s : State, Invariant s → MainReady s → s.phase = .scan → frameStart s.rxHeld = true →
    (s.rxHeld.length = 5 ∨
      ∃ len, s.rxHeld[5]? = some len ∧ 2 ≤ len.toNat ∧ len.toNat + 5 ≤ s.params.rxCap - 1 ∧
        s.rxHeld.length < len.toNat + 5) →
    runAgent .main s = .next { s with phase := .trigger }

/-- R71: a good frame with an opcode outside the table is removed and has no other effect. That this takes three steps of
`Main` (scanner, dispatcher, removal) is the model's rendering of R52 (log 11). -/
def Obligations.UndefinedOpcodeHasNoEffect : Prop :=
  ∀ (s : State) (op : Byte) (payload : List Byte), Invariant s → MainReady s → s.phase = .scan →
    parseFrame (s.params.rxCap - 1) (s.rxHeld.drop (noiseLen s.rxHeld)) = .ok (op, payload) →
    (op.toNat = 0 ∨ 0x0C < op.toNat) →
    ∃ t, mainSteps 3 s = .next t ∧ t.rxHeld = s.rxHeld.drop (noiseLen s.rxHeld + (payload.length + 7)) ∧
      t.rx.head = s.rx.head ∧ t.rx.storage = s.rx.storage ∧ t = { s with rx := t.rx, phase := .trigger }

/-- R94, R99, R170: a good frame behind the noise stays in the ring for the dispatcher, only the noise is removed; and when
the frame the scanner found decodes to `i`, the step of `Main` is `exec` of `i`, after which the frame is removed. The
division into micro-steps is the model's (log 11). In the second clause the first form schedules `Main` by an input, the
second has no input and nothing pending. The last two clauses are a step in general, in the model's form of the environment
(log 4): an input lets an agent step, is an event that arrives (R11), or sets a level (R10; `ResetHoldsTheBlock` has `rst`); with
none left an enabled agent steps, of several any one (R51, R212), with at most one draw; and a build outside R4 is refused
(log 1). -/
def Obligations.StepRunsTheDecodedInstruction : Prop :=
  (∀ (s : State) (op : Byte) (payload : List Byte), Invariant s → MainReady s → s.phase = .scan →
    parseFrame (s.params.rxCap - 1) (s.rxHeld.drop (noiseLen s.rxHeld)) = .ok (op, payload) →
    ∃ t, runAgent .main s = .next t ∧ t.rxHeld = s.rxHeld.drop (noiseLen s.rxHeld) ∧
      t.rx.head = s.rx.head ∧ t.rx.storage = s.rx.storage ∧
      t = { s with rx := t.rx, micro := .dispatch, scanLen := payload.length + 7 }) ∧
  (∀ (s : State) (i : Instr) (len : Byte) (later : List Input),
    s.params.ok = true → MainRuns s → s.micro = .dispatch →
    (s.inputs = .run .main :: later ∨
      (s.inputs = [] ∧ later = [] ∧ s.pendTick = false ∧ s.pendConv = none ∧ s.pendBus = none)) →
    decode s.rxHeld = .ok i → s.rxHeld[5]? = some len → s.scanLen = len.toNat + 5 →
    step s = exec i { s with inputs := later, micro := .remove }) ∧
  (∀ s : State, s.params.ok = true →
    (∀ later : List Input,
      let rest := { s with inputs := later }
      (∀ a, s.inputs = .run a :: later → step s = runAgent a rest) ∧
      (s.inputs = .tick :: later → step s = arriveTick rest) ∧
      (∀ raw, s.inputs = .conv raw :: later → step s = arriveConv raw rest) ∧
      (∀ e, s.inputs = .bus e :: later → step s = arriveBus e rest) ∧
      (∀ active, s.inputs = .probe active :: later →
        step s = .next { s with inputs := later, probeActive := active })) ∧
    (s.inputs = [] →
      ((∀ a, enabled a s = false) ∧ step s = .next s) ∨
      ∃ a, enabled a s = true ∧ (step s = runAgent a s ∨ step s = runAgent a { s with draws := s.draws + 1 }))) ∧
  ∀ s : State, s.params.ok = false → step s = .refused .badParameters

/-! ## Rings -/

/-- R80, R81, R82: `count` is the number of bytes held, 0 exactly when empty and `CAP - 1` exactly when full; `free` is
the rest. -/
def Obligations.CountTellsEmptyAndFull : Prop :=
  ∀ (cap : Nat) (q : Ring), RingOk cap q →
    (q.count cap : Int) = ((q.head.toNat : Int) - q.tail.toNat) % cap ∧ q.count cap ≤ cap - 1 ∧
    (q.count cap = 0 ↔ q.isEmpty = true) ∧ (q.count cap = cap - 1 ↔ q.isFull cap = true) ∧
    q.free cap + q.count cap = cap - 1

/-- R84: a byte is appended, or dropped exactly when `CAP - 1` bytes are held; only the slot at the head is written. -/
def Obligations.EnqueueAppendsOrDrops : Prop :=
  ∀ (cap : Nat) (q : Ring) (b : Byte), RingOk cap q → cap ≤ 256 →
    (q.count cap = cap - 1 → q.enqueue cap b = none) ∧
    (q.count cap < cap - 1 → ∃ q', q.enqueue cap b = some q' ∧ RingOk cap q' ∧
      q'.held cap = q.held cap ++ [b] ∧ q'.tail = q.tail ∧ q'.head.toNat = (q.head.toNat + 1) % cap ∧
      ∀ a, a ≠ q.head.toNat → Memory.read q'.storage a = Memory.read q.storage a)

/-- R85: the oldest byte is returned and removed; an empty ring returns none. The storage is not written. -/
def Obligations.DequeueTakesTheOldest : Prop :=
  ∀ (cap : Nat) (q : Ring), RingOk cap q → cap ≤ 256 →
    match q.held cap with
    | [] => q.dequeue cap = none
    | b :: rest => ∃ q', q.dequeue cap = some (b, q') ∧ RingOk cap q' ∧ q'.held cap = rest ∧
        q'.head = q.head ∧ q'.storage = q.storage

/-- R86: `advance(q, n)` within its precondition drops the `n` oldest bytes and equals `n` calls of `dequeue`. -/
def Obligations.AdvanceEqualsDequeues : Prop :=
  ∀ (cap : Nat) (q : Ring) (n : Nat), RingOk cap q → cap ≤ 256 → n ≤ q.count cap →
    ∃ q', q.advance cap n = some q' ∧ RingOk cap q' ∧ q'.held cap = (q.held cap).drop n ∧
      q'.tail.toNat = (q.tail.toNat + n) % cap ∧ q'.head = q.head ∧ q'.storage = q.storage ∧
      (fifoRun cap (List.replicate n .dequeue) q).2.2 = q'

/-- R87: within its precondition `enqueueAll` appends the whole sequence and writes no slot but those from the head on. -/
def Obligations.EnqueueAllCommitsTheWhole : Prop :=
  ∀ (cap : Nat) (q : Ring) (bytes : List Byte), RingOk cap q → cap ≤ 256 → bytes.length ≤ q.free cap →
    ∃ q', q.enqueueAll cap bytes = some q' ∧ RingOk cap q' ∧ q'.held cap = q.held cap ++ bytes ∧
      q'.tail = q.tail ∧ q'.head.toNat = (q.head.toNat + bytes.length) % cap ∧
      ∀ a, (∀ i, i < bytes.length → (q.head.toNat + i) % cap ≠ a) →
        Memory.read q'.storage a = Memory.read q.storage a

/-- R88: for any sequence of calls from an empty ring, the bytes returned are a prefix of the bytes accepted, in order;
the rest is what the ring holds; and `enqueue` refuses exactly when `CAP - 1` bytes are outstanding. -/
def Obligations.RingIsFifo : Prop :=
  ∀ (cap : Nat) (calls : List FifoCall) (q : Ring), RingOk cap q → cap ≤ 256 → q.isEmpty = true →
    ∃ outstanding, (fifoRun cap calls q).1 = (fifoRun cap calls q).2.1 ++ outstanding ∧
      (fifoRun cap calls q).2.2.held cap = outstanding ∧
      ∀ b, (fifoRun cap calls q).2.2.enqueue cap b = none ↔ outstanding.length = cap - 1

/-! ## Interrupts and the bus -/

/-- R90: a received byte is appended to the receive ring, or lost without a trace when it is full. -/
def Obligations.BusReceiveAppendsOrDrops : Prop :=
  ∀ (s : State) (b : Byte), Invariant s → s.rst = false → s.intMask = false → s.busErr = false →
    s.pendBus = some (.rx b) →
    ∃ t, runAgent .bus s = .next t ∧ t = { s with rx := t.rx, pendBus := none } ∧
      (s.rxHeld.length = s.params.rxCap - 1 → t.rx = s.rx) ∧
      (s.rxHeld.length < s.params.rxCap - 1 → t.rxHeld = s.rxHeld ++ [b] ∧ t.rx.tail = s.rx.tail)

/-- R91: the master reads the oldest byte of the transmit ring, which is removed, or the filler 0x00 when it is empty. -/
def Obligations.BusTransmitSendsOldestOrFiller : Prop :=
  ∀ s : State, Invariant s → s.rst = false → s.intMask = false → s.busErr = false → s.pendBus = some .txreq →
    ∃ t, runAgent .bus s = .next t ∧ t = { s with tx := t.tx, pendBus := none, busRead := t.busRead } ∧
      match s.txHeld with
      | [] => t.busRead = s.busRead ++ [0x00] ∧ t.tx = s.tx
      | b :: rest => t.busRead = s.busRead ++ [b] ∧ t.txHeld = rest ∧ t.tx.head = s.tx.head

/-- R92, R205, U5: `BusError` changes no state of the block. After it `Bus` may act or not, whatever the free value is;
that a stuck `Bus` only draws, and that the error is remembered in `busErr`, is the model's own (log 9). -/
def Obligations.BusErrorLeavesTheBlockAlone : Prop :=
  (∀ s : State, s.rst = false → s.intMask = false → s.busErr = false → s.pendBus = some .buserr →
    runAgent .bus s = .next { s with pendBus := none, busErr := true }) ∧
  (∀ s : State, s.rst = false → s.intMask = false → s.busErr = true → s.pendBus.isSome = true →
    runAgent .bus s = .next { s with draws := s.draws + 1 } ∨
    runAgent .bus s = .next (serveBus { s with draws := s.draws + 1 }))

/-- R29, R31, R50, R230: when each agent is enabled, and that one which is not does nothing (log 4), so that no handler steps
while the interrupts are masked; an event that arrives is latched, masked or not. The last three clauses are what U5, U7 and U9
leave outside the rules: a second event of a pending source and a count out of range are refused (logs 7 and 8), and after a
bus-level error one of the two bus events stays latched (log 9). -/
def Obligations.MaskedHandlersWait : Prop :=
  (∀ (a : Agent) (s : State),
    (enabled a s = true ↔ s.rst = false ∧ match a with
      | .tick => s.pendTick = true ∧ s.intMask = false
      | .conv => s.pendConv ≠ none ∧ s.intMask = false
      | .bus => s.pendBus ≠ none ∧ s.intMask = false
      | .main => s.mainBusy = false
      | .settle => s.mainBusy = true) ∧
    (enabled a s = false → runAgent a s = .next s)) ∧
  (∀ s : State, s.intMask = true →
    runAgent .tick s = .next s ∧ runAgent .conv s = .next s ∧ runAgent .bus s = .next s) ∧
  ∀ s : State, s.rst = false →
    (s.pendTick = false → arriveTick s = .next { s with pendTick := true }) ∧
    (∀ raw : Half, raw.toNat < 2 ^ s.params.adcBits → s.pendConv = none →
      arriveConv raw s = .next { s with pendConv := some raw }) ∧
    (∀ e : BusEvent, s.pendBus = none → arriveBus e s = .next { s with pendBus := some e }) ∧
    (s.pendTick = true → arriveTick s = .refused .eventOverrun) ∧
    (∀ raw : Half,
      (2 ^ s.params.adcBits ≤ raw.toNat → arriveConv raw s = .refused .rawOutOfRange) ∧
      (raw.toNat < 2 ^ s.params.adcBits → s.pendConv ≠ none → arriveConv raw s = .refused .eventOverrun)) ∧
    ∀ e old : BusEvent, s.pendBus = some old →
      (s.busErr = false → arriveBus e s = .refused .eventOverrun) ∧
      (s.busErr = true → ∃ kept, (kept = e ∨ kept = old) ∧
        arriveBus e s = .next { s with pendBus := some kept, draws := s.draws + 1 })

/-- R212: two handlers that run back to back give the same state in either order. -/
def Obligations.HandlersCommute : Prop :=
  ∀ (s : State) (a b : Agent), a ≠ .main → a ≠ .settle → b ≠ .main → b ≠ .settle → a ≠ b →
    thenNext (runAgent a s) (runAgent b) = thenNext (runAgent b s) (runAgent a)

/-! ## Acquisition -/

/-- R110, R111, R112: in both modes the raw sample goes to the channel `chanIdx` named, the index advances by one and the
sampler is armed two ahead, both modulo 4; no other channel's sample, average or deviation changes. The step of `Conv` is
`convComplete` of the latched count with the pending bit cleared (R29), of which the next three statements say the rest. -/
def Obligations.ConversionStoresAndAdvances : Prop :=
  ∀ (s : State) (raw : Half), s.rst = false → s.intMask = false → s.pendConv = some raw →
    ∃ t, runAgent .conv s = .next t ∧ t = convComplete raw { s with pendConv := none } ∧ t.pendConv = none ∧
      (t.chan s.chanIdx).rawSample = raw ∧ t.chanIdx.toNat = (s.chanIdx.toNat + 1) % 4 ∧
      t.muxSel.toNat = (s.chanIdx.toNat + 2) % 4 ∧
      (∀ d, d ≠ s.chanIdx → (t.chan d).rawSample = (s.chan d).rawSample ∧
        (t.chan d).average = (s.chan d).average ∧ (t.chan d).deviation = (s.chan d).deviation) ∧
      t = { s with ch := t.ch, chanIdx := t.chanIdx, muxSel := t.muxSel, calCycle := t.calCycle,
                   calRemaining := t.calRemaining, triggered := t.triggered, pendConv := none }

/-- R115, R116, R117: Armed mode. The filter, the deviation, and the strict threshold test, which only ever sets the
flag. -/
def Obligations.ArmedSampleFiltersAndTests : Prop :=
  ∀ (s : State) (raw : Half), s.calRemaining = 0 →
    let t := convComplete raw s
    let x := t.chan s.chanIdx
    x.average = fadd (fmul (s.chan s.chanIdx).average (fsub 0x3F800000 s.settings.filterAlpha))
                     (fmul (u2f raw.toNat) s.settings.filterAlpha) ∧
    x.deviation = fabs (fsub x.average (s.chan s.chanIdx).centerline) ∧
    (t.triggered = true ↔ s.triggered = true ∨ fgt x.deviation (u2f s.settings.thresholdFactor.toNat) = true) ∧
    (∀ d, (t.chan d).centerline = (s.chan d).centerline) ∧ t.calRemaining = 0 ∧ t.calCycle = s.calCycle

/-- R115: "alpha=1 ⇒ no smoothing; alpha=0 ⇒ frozen average", exactly. -/
def Obligations.FilterEndpointsAreExact : Prop :=
  ∀ (average : F32) (raw : Half), f32FiniteNonneg average →
    filterStep average 0x3F800000 raw = u2f raw.toNat ∧ filterStep average 0x00000000 raw = average

/-- R118, R119, R120, R121: a conversion in Calibrating mode, for every sample. No average, no deviation and not the flag is
written; the sample is added to the accumulator of the channel sampled and to no other; `calCycle` goes up by one modulo 4;
the count falls by one exactly when `calCycle` returns to 0; and when the count then reaches 0 all four accumulators are
divided by the configured count. -/
def Obligations.CalibrationFreezesTheFilter : Prop :=
  ∀ (s : State) (raw : Half), s.calRemaining ≠ 0 →
    let t := convComplete raw s
    let sum := fun c : BitVec 2 =>
      if c = s.chanIdx then fadd (s.chan c).centerline (u2f raw.toNat) else (s.chan c).centerline
    t.triggered = s.triggered ∧
    (∀ c, (t.chan c).average = (s.chan c).average ∧ (t.chan c).deviation = (s.chan c).deviation) ∧
    t.calCycle.toNat = (s.calCycle.toNat + 1) % 4 ∧
    t.calRemaining = (if s.calCycle = 3 then s.calRemaining - 1 else s.calRemaining) ∧
    ∀ c, (t.chan c).centerline =
      if s.calCycle = 3 ∧ s.calRemaining = 1 then fdiv (sum c) (u2f s.settings.calibrationSampleCount.toNat) else sum c

/-- R119, R120, R123, R124: a calibration of `N > 0` samples ends with the `4 N`-th conversion and not before, whatever the
samples are and whatever channel it starts at; with the constant sample `X` and `N X < 2^24` it leaves every centerline
exactly `X`. -/
def Obligations.CalibrationConverges : Prop :=
  ∀ (s : State) (N : Nat), s.settings.calibrationSampleCount.toNat = N → 0 < N →
    (∀ raws : List Half, raws.length < 4 * N → (convMany raws (startCalibration s)).calRemaining ≠ 0) ∧
    (∀ raws : List Half, raws.length = 4 * N → (convMany raws (startCalibration s)).calRemaining = 0) ∧
    ∀ X : Half, N * X.toNat < 2 ^ 24 →
      ∀ c, ((convMany (List.replicate (4 * N) X) (startCalibration s)).chan c).centerline = u2f X.toNat

/-- R125, with the premise of U6 on the stored block as part of `FloatSafe`: no float register ever becomes negative, infinite
or a NaN. `FloatSafe` holds at reset (of the model's blank block, log 3) and every step keeps it; the last clause is the same
for one step from any state with a coefficient between 0 and 1, `-0.0` included. -/
def Obligations.FloatRegistersStayTame : Prop :=
  FloatSafe State.reset ∧
  (∀ s t : State, Invariant s → FloatSafe s → step s = .next t → FloatSafe t) ∧
  (∀ s t : State, floatsTame s → alphaInRange s.settings.filterAlpha →
    (s.calRemaining ≠ 0 → s.settings.calibrationSampleCount ≠ 0) → step s = .next t → floatsTame t)

/-! ## Trigger and debounce -/

/-- R130, R131, R134: the Trigger phase, mode by mode, and the whole fire action. -/
def Obligations.TriggerPhaseFiresByMode : Prop :=
  ∀ s : State, MainReady s → s.phase = .trigger →
    runAgent .main s = .next
      (if (s.settings.trigMode = 0 ∧ s.debounce.counter = 0 ∧ s.triggered = true ∧ s.probeActive = true) ∨
          (s.settings.trigMode = 1 ∧ s.debounce.counter = 0 ∧ s.triggered = true) ∨
          (s.settings.trigMode = 2 ∧ s.probeActive = true) ∨
          (s.settings.trigMode = 3 ∧ ((s.debounce.counter = 0 ∧ s.triggered = true) ∨ s.probeActive = true))
       then { s with trigOut := true, triggered := false, intMask := false, phase := .debounce,
                     debounce := ⟨s.settings.debounceLengthMillis, s.clock.millis⟩ }
       else { s with phase := .debounce })

/-- R136, R137, R138: the Debounce phase with the modular difference; `startTime` keeps its value. -/
def Obligations.DebouncePhaseExpires : Prop :=
  ∀ s : State, MainReady s → s.phase = .debounce →
    runAgent .main s = .next
      (if s.debounce.counter.toNat ≤ (s.clock.millis.toNat + 2 ^ 32 - s.debounce.startTime.toNat) % 2 ^ 32
       then { s with trigOut := false, debounce := ⟨0, s.debounce.startTime⟩, intMask := false, phase := .scan }
       else { s with intMask := false, phase := .scan })

/-- R140: the branching form of the comparison is the same predicate. -/
def Obligations.BranchingFormAgrees : Prop :=
  ∀ (now startTime : Word) (counter : Half),
    let d := startTime.toNat + counter.toNat
    (debounceExpired now ⟨counter, startTime⟩ = true ↔
      (d < 2 ^ 32 ∧ (d ≤ now.toNat ∨ now.toNat < startTime.toNat)) ∨
      (2 ^ 32 ≤ d ∧ d - 2 ^ 32 ≤ now.toNat ∧ now.toNat < startTime.toNat))

/-- R139: with a hold length of zero the pulse lasts from the Trigger phase to the Debounce phase after it. -/
def Obligations.ZeroLengthPulseIsOnePhase : Prop :=
  ∀ s : State, MainReady s → s.phase = .trigger → s.settings.debounceLengthMillis = 0 →
    s.settings.trigMode = 1 → s.debounce.counter = 0 → s.triggered = true →
    ∃ t u, runAgent .main s = .next t ∧ t.trigOut = true ∧ t.debounce.counter = 0 ∧
      runAgent .main t = .next u ∧ u.trigOut = false ∧ u.debounce.counter = 0 ∧ u.phase = .scan

/-- R17: only a fire action clears `triggered`. -/
def Obligations.OnlyFiringClearsTheFlag : Prop :=
  ∀ (a : Agent) (s t : State), runAgent a s = .next t → s.triggered = true → t.triggered = false →
    a = .main ∧ s.boot = .done ∧ s.micro = .phaseStep ∧ s.phase = .trigger ∧ t.trigOut = true ∧
      t.debounce = ⟨s.settings.debounceLengthMillis, s.clock.millis⟩

/-- R19, R138, R143: no agent lowers the output or cancels a pulse but the expiry in the Debounce phase; a counter of zero
that a fire action loads is the zero-length pulse of R139. -/
def Obligations.OutputFallsOnlyOnExpiry : Prop :=
  ∀ (a : Agent) (s t : State), runAgent a s = .next t →
    let expiry := a = .main ∧ s.boot = .done ∧ s.micro = .phaseStep ∧ s.phase = .debounce ∧
      debounceExpired s.clock.millis s.debounce = true ∧ t.debounce.counter = 0 ∧ t.trigOut = false
    (s.trigOut = true → t.trigOut = false → expiry) ∧
    (s.debounce.counter ≠ 0 → t.debounce.counter = 0 → expiry ∨
      (a = .main ∧ s.boot = .done ∧ s.micro = .phaseStep ∧ s.phase = .trigger ∧ t.trigOut = true ∧
        s.settings.debounceLengthMillis = 0 ∧ t.debounce.startTime = s.clock.millis))

/-! ## Clock and settings -/

/-- R150: one tick, in exact numbers. -/
def Obligations.ClockTickCarries : Prop :=
  ∀ s : State, s.rst = false → s.intMask = false → s.pendTick = true →
    s.params.tickFractInc < s.params.fractMax → s.params.fractMax ≤ 256 →
    s.clock.microFraction.toNat < s.params.fractMax →
    ∃ t, runAgent .tick s = .next t ∧ t = { s with clock := t.clock, pendTick := false } ∧
      t.clock.microFraction.toNat = (s.clock.microFraction.toNat + s.params.tickFractInc) % s.params.fractMax ∧
      t.clock.millis.toNat = (s.clock.millis.toNat + s.params.tickMsInc +
        (s.clock.microFraction.toNat + s.params.tickFractInc) / s.params.fractMax) % 2 ^ 32 ∧
      t.clock.overflowCount.toNat = (s.clock.overflowCount.toNat + 1) % 2 ^ 32

/-- R26, R151: nothing but `Tick` moves the clock. -/
def Obligations.OnlyTicksMoveTheClock : Prop :=
  ∀ (a : Agent) (s t : State), a ≠ .tick → runAgent a s = .next t → t.clock = s.clock

/-- R156, R157: the layout of the packed block and its two checksums; `Unpack` ignores the checksums and reads back every
settings, NaN patterns included; a block is valid exactly when both checksums hold, so the two erased blocks are not, and
a change of any one byte of a packed block is detected. -/
def Obligations.PackedSettingsReadBack : Prop :=
  (∀ t : Settings, (packSettings t).length = 17 ∧ (packSettings t)[0]? = some t.trigMode ∧
    (∀ i, i < 4 → (packSettings t)[1 + i]? = some (t.thresholdFactor.extractLsb' (8 * i) 8) ∧
      (packSettings t)[5 + i]? = some (t.filterAlpha.extractLsb' (8 * i) 8) ∧
      (packSettings t)[9 + i]? = some (t.calibrationSampleCount.extractLsb' (8 * i) 8)) ∧
    (∀ i, i < 2 → (packSettings t)[13 + i]? = some (t.debounceLengthMillis.extractLsb' (8 * i) 8)) ∧
    (packSettings t)[15]? = some (xorAll ((packSettings t).take 15)) ∧
    (packSettings t)[16]? = some (~~~ xorAll ((packSettings t).take 15)) ∧
    unpackSettings (packSettings t) = t ∧ blockValid (packSettings t) = true ∧
    ∀ (k : Nat) (b : Byte), k < 17 → (packSettings t)[k]? ≠ some b →
      blockValid ((packSettings t).set k b) = false) ∧
  (∀ B : List Byte, B.length = 17 →
    (blockValid B = true ↔ B[15]? = some (xorAll (B.take 15)) ∧ B[16]? = (B[15]?).map (~~~ ·)) ∧
    ∀ x y : Byte, unpackSettings ((B.set 15 x).set 16 y) = unpackSettings B) ∧
  blockValid (List.replicate 17 0x00) = false ∧ blockValid (List.replicate 17 0xFF) = false

/-- R158, R204, R233: boot step B2. A valid block is loaded as it is; otherwise the defaults are loaded, stored as a valid
block, and the settle delay begins. -/
def Obligations.BootLoadsSettings : Prop :=
  ∀ s : State, s.rst = false → s.mainBusy = false → s.boot = .b2 →
    (blockValid (nvRead s) = true →
      runAgent .main s = .next { s with settings := unpackSettings (nvRead s), boot := .b3 }) ∧
    (blockValid (nvRead s) = false →
      ∃ t, runAgent .main s = .next t ∧ t.settings = defaultSettings s.params ∧
        nvRead t = packSettings (defaultSettings s.params) ∧ blockValid (nvRead t) = true ∧
        t = { s with settings := t.settings, nv := t.nv, mainBusy := true, boot := .b3 })

/-- R161: `NV` is written on two occasions only, boot step B2 with an invalid block and the dispatch of opcode 0x0A. -/
def Obligations.NvIsWrittenOnTwoOccasions : Prop :=
  ∀ (a : Agent) (s t : State), Invariant s → runAgent a s = .next t → t.nv ≠ s.nv →
    a = .main ∧
      ((s.boot = .b2 ∧ blockValid (nvRead s) = false) ∨
        (s.boot = .done ∧ s.phase = .scan ∧ s.micro = .dispatch ∧ frameOpcode s = 0x0A))

/-! ## Reset, boot and the whole machine -/

/-- R33, R231 to R235: from the release of `rst` with nothing arriving, boot ends in the column "after boot", four steps
on with a valid block, five (one of them the settle delay) without. The state is the one `ResetHoldsTheBlock` gives for the
release, whatever was drawn and whatever the probe's level is. -/
def Obligations.BootReachesTheMainLoop : Prop :=
  ∀ (p : Params) (nv : Memory) (unspecified : Settings) (rxStorage txStorage : Memory) (probe : Bool) (drawn : Nat),
    p.ok = true →
    let s := { atReset p nv unspecified rxStorage txStorage with probeActive := probe, draws := drawn }
    (blockValid (nvRead s) = true →
      Host.Core.run Sys2Proof.core 4 s = .next { s with
        boot := .done, intMask := false, settings := unpackSettings (nvRead s),
        calRemaining := (unpackSettings (nvRead s)).calibrationSampleCount }) ∧
    (blockValid (nvRead s) = false →
      ∃ t : State, Host.Core.run Sys2Proof.core 5 s = .next t ∧ nvRead t = packSettings (defaultSettings p) ∧
        t = { s with
          boot := .done, intMask := false, settings := defaultSettings p, nv := t.nv,
          calRemaining := p.defaultCalSamples })

/-- R33, R205, R230: asserting `rst` gives every register that R33 names its value at reset and keeps the persistent block; the
model's own fields are at their reset values too (logs 9, 11, 12, 15), so that boot step B1 is next, nothing of a frame is in
progress and `Bus` is stuck no longer. While `rst` is asserted no agent steps, every event is discarded and asserting it again
changes nothing. Its release changes nothing else, so that what is released is the state `BootReachesTheMainLoop` starts from,
with free settings and free ring storage (R33). -/
def Obligations.ResetHoldsTheBlock : Prop :=
  (∀ (s : State) (rest : List Input), s.params.ok = true → s.rst = false → s.inputs = .assertReset :: rest →
    ∃ t, step s = .next t ∧ t.rst = true ∧ t.nv = s.nv ∧ t.inputs = rest ∧
      (∀ c, t.chan c = ⟨0, 0, 0, 0⟩) ∧ t.phase = .scan ∧ t.chanIdx = 0 ∧ t.calCycle = 0 ∧ t.muxSel = 0 ∧
      t.triggered = false ∧ t.txOverflow = false ∧ t.trigOut = false ∧ t.intMask = true ∧ t.mainBusy = false ∧
      t.pendTick = false ∧ t.pendConv = none ∧ t.pendBus = none ∧ t.calRemaining = 0 ∧ t.debounce = ⟨0, 0⟩ ∧
      t.clock = ⟨0, 0, 0⟩ ∧ t.rx.head = 0 ∧ t.rx.tail = 0 ∧ t.tx.head = 0 ∧ t.tx.tail = 0 ∧
      t.boot = .b1 ∧ t.micro = .phaseStep ∧ t.scanLen = 0 ∧ t.busErr = false ∧ t.busRead = [] ∧
      t.params = s.params ∧ t.probeActive = s.probeActive) ∧
  (∀ s : State, s.rst = true →
    (∀ a, runAgent a s = .next s) ∧ arriveTick s = .next s ∧ (∀ raw, arriveConv raw s = .next s) ∧
      ∀ e, arriveBus e s = .next s) ∧
  (∀ (s : State) (rest : List Input), s.params.ok = true →
    (s.inputs = .releaseReset :: rest → step s = .next { s with rst := false, inputs := rest }) ∧
    (s.rst = true → s.inputs = .assertReset :: rest → step s = .next { s with inputs := rest })) ∧
  ∀ (s : State) (later : List Input), s.params.ok = true → s.rst = false →
    s.inputs = .assertReset :: .releaseReset :: later →
    ∃ u, Host.Core.run Sys2Proof.core 2 s = .next u ∧ u.rst = false ∧ u.inputs = later ∧
      u = { atReset s.params s.nv u.settings u.rx.storage u.tx.storage with
            inputs := later, probeActive := s.probeActive, draws := u.draws }

/-- The state after reset keeps the invariant. Its build and unspecified settings are the model's choice (logs 1 to 3). -/
def Obligations.ResetKeepsTheInvariant : Prop := Invariant State.reset

/-- Every step from a state with the invariant answers, if it answers a next state, one with the invariant. -/
def Obligations.StepKeepsTheInvariant : Prop :=
  ∀ s t : State, Invariant s → step s = .next t → Invariant t

/-- From a state with the invariant no step faults: the ring is never advanced past its head (U4). -/
def Obligations.InvariantExcludesFaults : Prop :=
  ∀ (s : State) (f : Fault), Invariant s → step s ≠ .fault f

/-- R18: `txOverflow` is cleared by nothing but `rst`. -/
def Obligations.OnlyResetClearsTxOverflow : Prop :=
  ∀ s t : State, step s = .next t → s.txOverflow = true → t.txOverflow = false →
    s.rst = false ∧ t.rst = true ∧ ∃ rest, s.inputs = .assertReset :: rest

/-! ## The commands -/

/-- R190: the frame of every request. A command that answers changes nothing but what its handler calls the frame builder
with, a response row with the request's opcode (`ResponseRowsCommitWholeOrNothing` says what the builder writes); opcodes 0x04
and 0x05 nothing but the snapshot begun (log 11); a set command its field; `Reset`, `Recalibrate` and `StoreSettings` what
their rows list. A critical section leaves `intMask` clear (R50), and a payload that is too short enters none. -/
def Obligations.CommandsTouchOnlyTheirRow : Prop :=
  ∀ (p : List Byte) (s t : State),
    (∀ i ∈ [Instr.getIdAndVersion p, .getThreshold p, .getTriggerMode p, .getAlpha p], exec i s = .next t →
      ∃ r, r.isRequest = false ∧ r.opcode = i.opcode ∧ t = { s with micro := .build r }) ∧
    (∀ i ∈ [Instr.readCurrentValues p, .readCurrentAverages p], exec i s = .next t →
      ∃ kind v, t = { s with micro := .snapshot kind [v], intMask := false }) ∧
    (exec (.setThreshold p) s = .next t →
      t = { s with settings := { s.settings with thresholdFactor := t.settings.thresholdFactor },
                   intMask := if p.isEmpty then s.intMask else false }) ∧
    (exec (.setTriggerMode p) s = .next t →
      t = { s with settings := { s.settings with trigMode := t.settings.trigMode } }) ∧
    (exec (.setAlpha p) s = .next t →
      t = { s with settings := { s.settings with filterAlpha := t.settings.filterAlpha },
                   intMask := if p.isEmpty then s.intMask else false }) ∧
    (exec (.reset p) s = .next t →
      t = { s with settings := t.settings, ch := t.ch, calCycle := t.calCycle, calRemaining := t.calRemaining,
                   intMask := false } ∧
      ∀ c, t.chan c = { s.chan c with centerline := (t.chan c).centerline }) ∧
    (exec (.recalibrate p) s = .next t →
      t = { s with ch := t.ch, calCycle := t.calCycle, calRemaining := t.calRemaining, intMask := false } ∧
      ∀ c, t.chan c = { s.chan c with centerline := (t.chan c).centerline }) ∧
    (exec (.storeSettings p) s = .next t → t = { s with nv := t.nv, mainBusy := true })

/-- R200 to R207: when each error class is raised, and that `txOverflow` is set exactly with `TxOverflow` and never cleared.
First clause: no instruction raises what leaves `txOverflow` clear. Second: what the meaning of an instruction raises; a short
payload is class (b) and never class (c). Third: at which step of which agent each class is raised; the two clauses on a
`Bus` after an earlier bus error are the model's choice (U5, log 9), the micro-steps too (log 11). -/
def Obligations.TxOverflowMarksALostResponse : Prop :=
  (∀ (i : Instr) (s t : State), exec i s = .next t →
    t.txOverflow = (s.txOverflow || decide (ErrorClass.txOverflow ∈ handlerErrors i s))) ∧
  (∀ (i : Instr) (s : State),
    (ErrorClass.malformedPayload ∈ handlerErrors i s ↔ i = .setThreshold [] ∨ i = .setTriggerMode [] ∨ i = .setAlpha []) ∧
    (ErrorClass.invalidFieldValue ∈ handlerErrors i s ↔ ∃ b rest,
      (i = .setTriggerMode (b :: rest) ∧ 3 < b.toNat) ∨ (i = .setAlpha (b :: rest) ∧ 100 < b.toNat)) ∧
    (ErrorClass.txOverflow ∈ handlerErrors i s ↔ i.isRequest = false ∧ s.tx.free s.params.txCap < (encode i).length) ∧
    (ErrorClass.malformedPayload ∈ handlerErrors i s → ErrorClass.invalidFieldValue ∉ handlerErrors i s)) ∧
  ∀ (a : Agent) (s : State), Invariant s →
    (ErrorClass.framingError ∈ agentErrors a s ↔ a = .main ∧ MainReady s ∧ s.phase = .scan ∧
      let F := s.rxHeld.drop (noiseLen s.rxHeld)
      frameStart F = true ∧ ∃ len : Byte, F[5]? = some len ∧
        (len.toNat < 2 ∨ s.params.rxCap - 1 < len.toNat + 5 ∨
          (len.toNat + 5 ≤ F.length ∧ xorAll ((F.drop 4).take (len.toNat + 1)) ≠ 0x00))) ∧
    (∀ e ∈ [ErrorClass.malformedPayload, .invalidFieldValue], e ∈ agentErrors a s ↔
      a = .main ∧ MainRuns s ∧ s.micro = .dispatch ∧
        ∃ i, requestOf (frameOpcode s) (framePayload s) = .ok i ∧ e ∈ handlerErrors i s) ∧
    (ErrorClass.settingsChecksumError ∈ agentErrors a s ↔
      a = .main ∧ s.rst = false ∧ s.mainBusy = false ∧ s.boot = .b2 ∧ blockValid (nvRead s) = false) ∧
    (ErrorClass.busLevelError ∈ agentErrors a s ↔
      a = .bus ∧ s.rst = false ∧ s.intMask = false ∧ s.pendBus = some .buserr ∧
        (s.busErr = false ∨ Config.freeBool s.draws = true)) ∧
    (ErrorClass.txOverflow ∈ agentErrors a s ↔ a = .main ∧ MainRuns s ∧
      ∃ r, s.micro = .build r ∧ s.tx.free s.params.txCap < (encode r).length)

/-- R103, R104, R105: every response row completes. With room, exactly its frame is appended to the transmit ring and no
slot outside the frame's changes; without, nothing but `txOverflow` changes. The frame builder's step of `Main` executes the
row it is called with, and the handler has then returned. That a response row's meaning is the commit of its frame is the
model's (log 14), the micro-step too (log 11). -/
def Obligations.ResponseRowsCommitWholeOrNothing : Prop :=
  (∀ (i : Instr) (s : State), i.isRequest = false → RingOk s.params.txCap s.tx → s.params.txCap ≤ 256 →
    ((encode i).length ≤ s.tx.free s.params.txCap →
      ∃ t, exec i s = .next t ∧ t.txHeld = s.txHeld ++ encode i ∧ t = { s with tx := t.tx } ∧
        t.tx.tail = s.tx.tail ∧ RingOk s.params.txCap t.tx ∧
        ∀ a, (∀ k, k < (encode i).length → (s.tx.head.toNat + k) % s.params.txCap ≠ a) →
          Memory.read t.tx.storage a = Memory.read s.tx.storage a) ∧
    (s.tx.free s.params.txCap < (encode i).length → exec i s = .next { s with txOverflow := true })) ∧
  ∀ (i : Instr) (s : State), MainRuns s → s.micro = .build i → runAgent .main s = exec i { s with micro := .remove }

/-- R171, R174, R175, R183, R187: each of the four commands that answer at once completes, with exactly the response its rule
gives, carrying the request's opcode, as what the frame builder is called with; and after the builder's step (a micro-step of
its own, log 11) with room exactly its frame is appended and no slot outside it changes, without room nothing but `txOverflow`
changes. The last clause is the percentage of R187, read on the bits of the rounded sum `r`. -/
def Obligations.ReadCommandsAnswer : Prop :=
  (∀ (p : List Byte) (s : State),
    ∀ ia ∈ [(Instr.getIdAndVersion p, Instr.getIdAndVersionResp s.params.boardId s.params.boardVersion),
            (.getThreshold p, .getThresholdResp (BitVec.ofNat 8 s.settings.thresholdFactor.toNat)),
            (.getTriggerMode p, .getTriggerModeResp s.settings.trigMode),
            (.getAlpha p, .getAlphaResp (alphaToPercent s.settings.filterAlpha))],
      ia.1.opcode = ia.2.opcode ∧ exec ia.1 s = .next { s with micro := .build ia.2 } ∧
      (MainRuns s → RingOk s.params.txCap s.tx → s.params.txCap ≤ 256 →
        ((encode ia.2).length ≤ s.tx.free s.params.txCap →
          ∃ t, thenNext (exec ia.1 s) (runAgent .main) = .next t ∧ t.txHeld = s.txHeld ++ encode ia.2 ∧
            t = { s with tx := t.tx, micro := .remove } ∧ t.tx.tail = s.tx.tail ∧
            ∀ a, (∀ k, k < (encode ia.2).length → (s.tx.head.toNat + k) % s.params.txCap ≠ a) →
              Memory.read t.tx.storage a = Memory.read s.tx.storage a) ∧
        (s.tx.free s.params.txCap < (encode ia.2).length →
          thenNext (exec ia.1 s) (runAgent .main) = .next { s with txOverflow := true, micro := .remove }))) ∧
  ∀ a : F32,
    (0x7F800000 < a.toNat % 2 ^ 31 → alphaToPercent a = 0) ∧
    (a.toNat % 2 ^ 31 ≤ 0x7F800000 →
      let r := fadd (fmul a 0x42C80000) 0x3F000000
      ((r.toNat < 0x3F800000 ∨ 2 ^ 31 ≤ r.toNat) → alphaToPercent a = 0) ∧
      (0x42CA0000 ≤ r.toNat → r.toNat < 2 ^ 31 → alphaToPercent a = 100) ∧
      (0x3F800000 ≤ r.toNat → r.toNat < 0x42CA0000 →
        (alphaToPercent a).toNat = (2 ^ 23 + r.toNat % 2 ^ 23) * 2 ^ (r.toNat / 2 ^ 23 - 127) / 2 ^ 23))

/-- R176, R175, R202: `SetThreshold` completes in every form; the threshold is the byte zero-extended, an empty payload
changes nothing, extra bytes are ignored; and `GetThreshold` then returns the byte. -/
def Obligations.SetThresholdThenGetReturnsIt : Prop :=
  (∀ s : State, exec (.setThreshold []) s = .next s) ∧
  ∀ (s : State) (b : Byte) (extra p : List Byte),
    ∃ t, exec (.setThreshold (b :: extra)) s = .next t ∧ t.settings.thresholdFactor.toNat = b.toNat ∧
      t = { s with settings := { s.settings with thresholdFactor := t.settings.thresholdFactor }, intMask := false } ∧
      (MainRuns s → RingOk s.params.txCap s.tx → s.params.txCap ≤ 256 → 8 ≤ s.tx.free s.params.txCap →
        ∃ u, thenNext (exec (.getThreshold p) t) (runAgent .main) = .next u ∧ u.txHeld = s.txHeld ++ encode (.getThresholdResp b))

/-- R182, R183, R202, R203: `SetTriggerMode` completes in every form; a byte up to 3 becomes the mode, a byte above 3 and
an empty payload change nothing; and `GetTriggerMode` then returns the mode. -/
def Obligations.SetTriggerModeThenGetReturnsIt : Prop :=
  (∀ s : State, exec (.setTriggerMode []) s = .next s) ∧
  ∀ (s : State) (m : Byte) (extra p : List Byte),
    (3 < m.toNat → exec (.setTriggerMode (m :: extra)) s = .next s) ∧
    (m.toNat ≤ 3 → ∃ t, exec (.setTriggerMode (m :: extra)) s = .next t ∧
      t = { s with settings := { s.settings with trigMode := m } } ∧
      (MainRuns s → RingOk s.params.txCap s.tx → s.params.txCap ≤ 256 → 8 ≤ s.tx.free s.params.txCap →
        ∃ u, thenNext (exec (.getTriggerMode p) t) (runAgent .main) = .next u ∧ u.txHeld = s.txHeld ++ encode (.getTriggerModeResp m)))

/-- R187, R188, R202, R203: `SetAlpha` completes in every form; the coefficient is `fdiv(u2f(q), 100.0)` with `q` the byte
clamped to 100, an empty payload changes nothing; and `GetAlpha` then returns `q` for every byte. -/
def Obligations.SetAlphaThenGetReturnsIt : Prop :=
  (∀ s : State, exec (.setAlpha []) s = .next s) ∧
  ∀ (s : State) (b : Byte) (extra p : List Byte),
    ∃ t, exec (.setAlpha (b :: extra)) s = .next t ∧
      t.settings.filterAlpha = fdiv (u2f (min b.toNat 100)) 0x42C80000 ∧
      t.settings.filterAlpha.toNat ≤ 0x3F800000 ∧ (100 ≤ b.toNat → t.settings.filterAlpha = 0x3F800000) ∧
      t = { s with settings := { s.settings with filterAlpha := t.settings.filterAlpha }, intMask := false } ∧
      (MainRuns s → RingOk s.params.txCap s.tx → s.params.txCap ≤ 256 → 8 ≤ s.tx.free s.params.txCap →
        ∃ u, thenNext (exec (.getAlpha p) t) (runAgent .main) = .next u ∧
          u.txHeld = s.txHeld ++ encode (.getAlphaResp (BitVec.ofNat 8 (min b.toNat 100))))

/-- R184: opcode 0x08 completes: the defaults, the centerlines `+0.0`, the calibration restarted with the default count;
`NV`, the rings, the clock, the flag, the output, the averages and the raw samples keep their values. -/
def Obligations.ResetCommandRestoresDefaults : Prop :=
  ∀ (s : State) (p : List Byte), ∃ t, exec (.reset p) s = .next t ∧
    t = { s with settings := defaultSettings s.params, ch := t.ch, calCycle := 0,
                 calRemaining := s.params.defaultCalSamples, intMask := false } ∧
    ∀ c, t.chan c = { s.chan c with centerline := 0x00000000 }

/-- R122, R185: opcode 0x09 completes: the centerlines `+0.0`, the count from the settings, the mode Armed at once exactly
when the count is 0; nothing else changes. It is the calibration that `CalibrationConverges` starts with. -/
def Obligations.RecalibrateRestartsOnly : Prop :=
  ∀ (s : State) (p : List Byte), ∃ t, exec (.recalibrate p) s = .next t ∧
    t = { s with ch := t.ch, calCycle := 0, calRemaining := s.settings.calibrationSampleCount, intMask := false } ∧
    (∀ c, t.chan c = { s.chan c with centerline := 0x00000000 }) ∧
    (t.calRemaining = 0 ↔ s.settings.calibrationSampleCount = 0) ∧ t = startCalibration s

/-- R160, R186: opcode 0x0A completes: the whole persistent block is the packed settings, valid and reading back as they
are, and the settle delay begins. -/
def Obligations.StoreSettingsPersists : Prop :=
  ∀ (s : State) (p : List Byte), ∃ t, exec (.storeSettings p) s = .next t ∧
    t = { s with nv := t.nv, mainBusy := true } ∧ nvRead t = packSettings s.settings ∧
    blockValid (nvRead t) = true ∧ unpackSettings (nvRead t) = s.settings

/-- R31, R100, R238: during the settle delay of opcode 0x0A `Main` takes no step, and its end (the model's agent `settle`,
log 10) changes nothing else; once the handler of a dispatched frame has returned, `Main`'s next step removes the frame
(a micro-step of its own, log 11), and the phase is Trigger. -/
def Obligations.SettleDelayThenRemoval : Prop :=
  ∀ s : State, Invariant s → s.rst = false → s.boot = .done → s.micro = .remove →
    (s.mainBusy = true → runAgent .main s = .next s ∧ runAgent .settle s = .next { s with mainBusy := false }) ∧
    (s.mainBusy = false →
      ∃ t, runAgent .main s = .next t ∧ t.rxHeld = s.rxHeld.drop s.scanLen ∧ t.rx.head = s.rx.head ∧
        t.rx.storage = s.rx.storage ∧
        t = { s with rx := t.rx, phase := .trigger, micro := .phaseStep, scanLen := 0 })

/-- R49: each further critical section of opcodes 0x04 and 0x05 reads the next channel as it is then, whatever the values
taken earlier were; after the fourth the frame builder is called with the three values taken earlier and channel 3 as it is
then, and its step commits that response or sets `txOverflow`. That the handler is at this point, and the division into
steps, is the model's `micro` (log 11). -/
def Obligations.SnapshotStepReadsOneChannel : Prop :=
  ∀ (s : State) (kind : SnapKind) (taken : List Half), MainRuns s → s.micro = .snapshot kind taken →
    (taken.length < 3 →
      runAgent .main s = .next { s with
        intMask := false
        micro := .snapshot kind (taken ++ [match kind with
          | .values => (s.chan (BitVec.ofNat 2 taken.length)).rawSample
          | .averages => f2u16 (s.chan (BitVec.ofNat 2 taken.length)).average]) }) ∧
    (∀ v0 v1 v2 : Half, taken = [v0, v1, v2] →
      let r := match kind with
        | .values => Instr.readCurrentValuesResp v0 v1 v2 (s.chan 3).rawSample
        | .averages => Instr.readCurrentAveragesResp v0 v1 v2 (f2u16 (s.chan 3).average)
      runAgent .main s = .next { s with intMask := false, micro := .build r } ∧
      (RingOk s.params.txCap s.tx → s.params.txCap ≤ 256 →
        (15 ≤ s.tx.free s.params.txCap →
          ∃ t, mainSteps 2 s = .next t ∧ t.txHeld = s.txHeld ++ encode r ∧ t.tx.tail = s.tx.tail ∧
            t = { s with intMask := false, tx := t.tx, micro := .remove }) ∧
        (s.tx.free s.params.txCap < 15 →
          mainSteps 2 s = .next { s with intMask := false, txOverflow := true, micro := .remove })))

/-- R180: opcode 0x04 completes its first critical section; and with no other agent between, seven steps of `Main` from the
Scan phase answer with the four raw samples and remove the request. The state between two critical sections (`micro`) and
the number of steps are the model's rendering of R49 and R52 (log 11). -/
def Obligations.ReadCurrentValuesAnswers : Prop :=
  (∀ (s : State) (p : List Byte), exec (.readCurrentValues p) s =
    .next { s with intMask := false, micro := .snapshot .values [(s.chan 0).rawSample] }) ∧
  (∀ (s : State) (p : List Byte), Invariant s → MainReady s → s.phase = .scan →
    parseFrame (s.params.rxCap - 1) (s.rxHeld.drop (noiseLen s.rxHeld)) = .ok (0x04, p) →
    ∃ t, mainSteps 7 s = .next t ∧ t.rxHeld = s.rxHeld.drop (noiseLen s.rxHeld + (p.length + 7)) ∧
      t = { s with rx := t.rx, tx := t.tx, txOverflow := t.txOverflow, phase := .trigger } ∧
      (15 ≤ s.tx.free s.params.txCap → t.txOverflow = s.txOverflow ∧
        t.txHeld = s.txHeld ++ encode (.readCurrentValuesResp (s.chan 0).rawSample (s.chan 1).rawSample
          (s.chan 2).rawSample (s.chan 3).rawSample)) ∧
      (s.tx.free s.params.txCap < 15 → t.txOverflow = true ∧ t.tx = s.tx))

/-- R181: opcode 0x05 likewise, with the averages truncated to 16 bits; the state between two critical sections (`micro`) and
the seven steps of `Main` are the model's rendering of R49 and R52 (log 11). The last clause is the truncation `f2u16` itself,
read on the bits: 0 for a NaN, for a value that is negative or below 1, 65535 from 65535.0 on, else the integer part. -/
def Obligations.ReadCurrentAveragesAnswers : Prop :=
  (∀ (s : State) (p : List Byte), exec (.readCurrentAverages p) s =
    .next { s with intMask := false, micro := .snapshot .averages [f2u16 (s.chan 0).average] }) ∧
  (∀ (s : State) (p : List Byte), Invariant s → MainReady s → s.phase = .scan →
    parseFrame (s.params.rxCap - 1) (s.rxHeld.drop (noiseLen s.rxHeld)) = .ok (0x05, p) →
    ∃ t, mainSteps 7 s = .next t ∧ t.rxHeld = s.rxHeld.drop (noiseLen s.rxHeld + (p.length + 7)) ∧
      t = { s with rx := t.rx, tx := t.tx, txOverflow := t.txOverflow, phase := .trigger } ∧
      (15 ≤ s.tx.free s.params.txCap → t.txOverflow = s.txOverflow ∧
        t.txHeld = s.txHeld ++ encode (.readCurrentAveragesResp (f2u16 (s.chan 0).average) (f2u16 (s.chan 1).average)
          (f2u16 (s.chan 2).average) (f2u16 (s.chan 3).average))) ∧
      (s.tx.free s.params.txCap < 15 → t.txOverflow = true ∧ t.tx = s.tx)) ∧
  ∀ a : F32,
    (0x7F800000 < a.toNat % 2 ^ 31 → f2u16 a = 0) ∧
    (a.toNat % 2 ^ 31 ≤ 0x7F800000 →
      ((a.toNat < 0x3F800000 ∨ 2 ^ 31 ≤ a.toNat) → f2u16 a = 0) ∧
      (0x477FFF00 ≤ a.toNat → a.toNat < 2 ^ 31 → f2u16 a = 65535) ∧
      (0x3F800000 ≤ a.toNat → a.toNat < 0x477FFF00 →
        (f2u16 a).toNat = (2 ^ 23 + a.toNat % 2 ^ 23) * 2 ^ (a.toNat / 2 ^ 23 - 127) / 2 ^ 23))
end

