-- ==== Sys2Proof/Laws/Memory.lean ====
section
/-! SUPPORT. Byte spaces: a write is read back, leaves every other address alone and keeps the canonical form. -/
namespace Sys2Proof.Machine

/-- A byte written is read back. -/
theorem read_write_self (m : Memory) (a : Nat) (b : Byte) (lo : Nat) (h : Memory.wfFrom lo m = true) :
    Memory.read (Memory.write m a b) a = b := by
  induction m generalizing lo with
  | nil =>
    by_cases hb : b = Memory.unlisted <;> simp [Memory.write, Memory.read, hb]
  | cons c m ih =>
    obtain ⟨x, v⟩ := c
    simp only [Memory.wfFrom, Bool.and_eq_true, decide_eq_true_eq] at h
    have absent : ∀ (l : Memory) (lo' : Nat), Memory.wfFrom lo' l = true → a < lo' →
        Memory.read l a = Memory.unlisted := by
      intro l
      induction l with
      | nil => intros; rfl
      | cons d l ihl =>
        obtain ⟨y, w⟩ := d
        intro lo' hl hlt
        simp only [Memory.wfFrom, Bool.and_eq_true, decide_eq_true_eq] at hl
        have hne : a ≠ y := by omega
        simp [Memory.read, hne, ihl (y + 1) hl.2 (by omega)]
    rcases Nat.lt_trichotomy a x with hlt | heq | hgt
    · by_cases hb : b = Memory.unlisted
      · have hne : a ≠ x := by omega
        simp [Memory.write, hlt, hb, Memory.read, hne, absent m (x + 1) h.2 (by omega)]
      · simp [Memory.write, hlt, hb, Memory.read]
    · subst heq
      by_cases hb : b = Memory.unlisted
      · simp [Memory.write, hb, absent m (a + 1) h.2 (by omega)]
      · simp [Memory.write, hb, Memory.read]
    · have h1 : ¬ a < x := by omega
      have h2 : a ≠ x := by omega
      simp [Memory.write, h1, h2, Memory.read, ih (x + 1) h.2]

/-- A write leaves every other address as it was. -/
theorem read_write_other (m : Memory) (a a' : Nat) (b : Byte) (h : a' ≠ a) :
    Memory.read (Memory.write m a b) a' = Memory.read m a' := by
  induction m with
  | nil => by_cases hb : b = Memory.unlisted <;> simp [Memory.write, Memory.read, hb, h]
  | cons c m ih =>
    obtain ⟨x, v⟩ := c
    simp only [Memory.write]
    split
    · split <;> simp [Memory.read, h]
    · split
      · rename_i h1 h2
        subst h2
        split <;> simp [Memory.read, h]
      · by_cases hx : a' = x <;> simp [Memory.read, hx, ih]

/-- A write keeps the canonical form. -/
theorem write_wfFrom (m : Memory) (lo a : Nat) (b : Byte) (h : Memory.wfFrom lo m = true) (ha : lo ≤ a) :
    Memory.wfFrom lo (Memory.write m a b) = true := by
  induction m generalizing lo with
  | nil => by_cases hb : b = Memory.unlisted <;> simp [Memory.write, Memory.wfFrom, hb, ha]
  | cons c m ih =>
    obtain ⟨x, v⟩ := c
    simp only [Memory.wfFrom, Bool.and_eq_true, decide_eq_true_eq] at h
    have weaken : ∀ (l : Memory) (p q : Nat), q ≤ p → Memory.wfFrom p l = true → Memory.wfFrom q l = true := by
      intro l p q hqp hl
      cases l with
      | nil => rfl
      | cons d l =>
        obtain ⟨y, w⟩ := d
        simp only [Memory.wfFrom, Bool.and_eq_true, decide_eq_true_eq] at hl ⊢
        exact ⟨⟨by omega, hl.1.2⟩, hl.2⟩
    simp only [Memory.write]
    split
    · split
      · simp [Memory.wfFrom, h.1.1, h.1.2, h.2]
      · rename_i hlt hb
        simp [Memory.wfFrom, ha, hb, h.1.2, h.2, Nat.succ_le_of_lt hlt]
    · split
      · rename_i h1 h2
        subst h2
        split
        · exact weaken m (a + 1) lo (by omega) h.2
        · rename_i hb
          simp [Memory.wfFrom, ha, hb, h.2]
      · rename_i h1 h2
        simp [Memory.wfFrom, h.1.1, h.1.2, ih (x + 1) h.2 (by omega)]

/-- A write keeps the canonical form of a byte space. -/
theorem write_wf (m : Memory) (a : Nat) (b : Byte) (h : Memory.wf m = true) : Memory.wf (Memory.write m a b) = true :=
  write_wfFrom m 0 a b h (Nat.zero_le a)

/-- A write below `n` stays below `n`. -/
theorem write_within (n : Nat) (m : Memory) (a : Nat) (b : Byte) (h : Memory.within n m = true) (ha : a < n) :
    Memory.within n (Memory.write m a b) = true := by
  induction m with
  | nil => by_cases hb : b = Memory.unlisted <;> simp [Memory.write, Memory.within, hb, ha]
  | cons c m ih =>
    obtain ⟨x, v⟩ := c
    simp only [Memory.within, List.all_cons, Bool.and_eq_true, decide_eq_true_eq] at h ih ⊢
    simp only [Memory.write]
    split
    · split <;> simp [ha, h.1, h.2]
    · split
      · split <;> simp [ha, h.2]
      · simp only [List.all_cons, Bool.and_eq_true, decide_eq_true_eq]
        exact ⟨h.1, ih h.2⟩

/-- A run of writes keeps the canonical form. -/
theorem writeRun_wf (cap : Nat) (m : Memory) (a : Nat) (bs : List Byte) (h : Memory.wf m = true) :
    Memory.wf (Memory.writeRun cap m a bs) = true := by
  induction bs generalizing m a with
  | nil => exact h
  | cons b bs ih => exact ih _ _ (write_wf m _ b h)

/-- A run of writes stays inside the byte space. -/
theorem writeRun_within (cap : Nat) (m : Memory) (a : Nat) (bs : List Byte) (hc : 0 < cap)
    (h : Memory.within cap m = true) : Memory.within cap (Memory.writeRun cap m a bs) = true := by
  induction bs generalizing m a with
  | nil => exact h
  | cons b bs ih => exact ih _ _ (write_within cap m _ b h (Nat.mod_lt a hc))

/-- A run of writes leaves an address alone that none of its addresses is. -/
theorem read_writeRun_other (cap : Nat) (m : Memory) (a : Nat) (bs : List Byte) (x : Nat)
    (h : ∀ i, i < bs.length → (a + i) % cap ≠ x) : Memory.read (Memory.writeRun cap m a bs) x = Memory.read m x := by
  induction bs generalizing m a with
  | nil => rfl
  | cons b bs ih =>
    rw [Memory.writeRun, ih]
    · exact read_write_other m _ x b (fun e => h 0 (by simp) (by simpa using e.symm))
    · intro i hi
      have := h (i + 1) (by simpa using hi)
      rwa [show a + (i + 1) = a + 1 + i by omega] at this

/-- Reset's byte spaces list nothing and are canonical. -/
theorem reset_memories_wf : Memory.wf State.reset.nv = true ∧ Memory.wf State.reset.rx.storage = true ∧
    Memory.wf State.reset.tx.storage = true := ⟨rfl, rfl, rfl⟩

end Sys2Proof.Machine
end

