-- ==== Sys2Proof/Laws/Ring.lean ====
section
/-! SUPPORT. What each ring operation can answer (R81 to R87), said once. -/
namespace Sys2Proof.Machine

/-- `count` is below the capacity (R81). -/
theorem count_lt (cap : Nat) (q : Ring) (h : 0 < cap) : q.count cap < cap := Nat.mod_lt _ h

/-- An index moved is the sum modulo the capacity (R89). -/
theorem moveIndex_toNat (cap : Nat) (i : Byte) (n : Nat) (h0 : 0 < cap) (h : cap ≤ 256) :
    (Ring.moveIndex cap i n).toNat = (i.toNat + n) % cap := by
  have : (i.toNat + n) % cap < cap := Nat.mod_lt _ h0
  simp only [Ring.moveIndex, BitVec.toNat_ofNat]
  omega

/-- If `enqueue` accepts a byte, the ring was not full; the byte is stored at the head, the head moves, the tail stays
(R84). -/
theorem enqueue_eq_some {cap : Nat} {q q' : Ring} {b : Byte} (h : q.enqueue cap b = some q') :
    q.isFull cap = false ∧ q' = { q with storage := Memory.write q.storage (q.head.toNat % cap) b,
                                         head := Ring.moveIndex cap q.head 1 } := by
  unfold Ring.enqueue at h
  split at h
  · cases h
  · rename_i hf
    exact ⟨by simpa using hf, (Option.some.inj h).symm⟩

/-- If `dequeue` returns a byte, the ring was not empty; it is the byte at the tail, and only the tail moves (R85). -/
theorem dequeue_eq_some {cap : Nat} {q q' : Ring} {b : Byte} (h : q.dequeue cap = some (b, q')) :
    q.isEmpty = false ∧ b = Memory.read q.storage (q.tail.toNat % cap) ∧
      q' = { q with tail := Ring.moveIndex cap q.tail 1 } := by
  unfold Ring.dequeue at h
  split at h
  · cases h
  · rename_i he
    have := Option.some.inj h
    exact ⟨by simpa using he, (congrArg Prod.fst this).symm, (congrArg Prod.snd this).symm⟩

/-- If `advance` answers, its precondition held and only the tail moves (R86). -/
theorem advance_eq_some {cap n : Nat} {q q' : Ring} (h : q.advance cap n = some q') :
    n ≤ q.count cap ∧ q' = { q with tail := Ring.moveIndex cap q.tail n } := by
  unfold Ring.advance at h
  split at h
  · exact ⟨‹_›, (Option.some.inj h).symm⟩
  · cases h

/-- If `enqueueAll` answers, its precondition held; the bytes are stored from the head on and the head moves once
(R87). -/
theorem enqueueAll_eq_some {cap : Nat} {q q' : Ring} {bs : List Byte} (h : q.enqueueAll cap bs = some q') :
    bs.length ≤ q.free cap ∧ q' = { q with storage := Memory.writeRun cap q.storage q.head.toNat bs,
                                           head := Ring.moveIndex cap q.head bs.length } := by
  unfold Ring.enqueueAll at h
  split at h
  · exact ⟨‹_›, (Option.some.inj h).symm⟩
  · cases h

/-- The bytes held are as many as `count` (R80). -/
@[simp] theorem held_length (cap : Nat) (q : Ring) : (q.held cap).length = q.count cap := by
  simp [Ring.held, Memory.readRun]

/-- `peek` reads the bytes held (R83). -/
theorem peek_eq_held (cap : Nat) (q : Ring) (i : Nat) : q.peek cap i = (q.held cap)[i]? := by
  unfold Ring.peek Ring.held Memory.readRun
  split
  · rename_i h; simp [h]
  · rename_i h
    exact (List.getElem?_eq_none (by simpa using h)).symm

/-- `moveIndex` stays below the capacity. -/
theorem moveIndex_lt (cap : Nat) (i : Byte) (n : Nat) (h0 : 0 < cap) (h : cap ≤ 256) :
    (Ring.moveIndex cap i n).toNat < cap := by
  rw [moveIndex_toNat cap i n h0 h]
  exact Nat.mod_lt _ h0

end Sys2Proof.Machine
end

