-- ==== Sys2Proof/Laws/Ops.lean ====
section
/-! SUPPORT. What each shared operation of the machine can answer, said once, for proofs to cite instead of unfolding. -/
namespace Sys2Proof.Machine

/-- A composed step answers a next state only through one of each part. -/
theorem thenNext_eq_next {o : Host.Outcome State Fault Refusal} {f : State → Host.Outcome State Fault Refusal}
    {t : State} (h : thenNext o f = .next t) : ∃ s, o = .next s ∧ f s = .next t := by
  cases o with
  | next s => exact ⟨s, rfl, h⟩
  | fault r => cases h
  | refused r => cases h

/-- However many bytes are placed, the ring is well formed (R40, R89). -/
theorem ringOf_ok (cap : Nat) (bytes : List Byte) (h0 : 0 < cap) (h : cap ≤ 256) : RingOk cap (ringOf cap bytes) where
  head := by
    simp only [ringOf, List.length_take, BitVec.toNat_ofNat]
    omega
  tail := h0
  canonical := writeRun_wf cap [] 0 _ rfl
  inside := writeRun_within cap [] 0 _ h0 rfl

/-- Going on after a next state. -/
@[simp] theorem thenNext_next (s : State) (f : State → Host.Outcome State Fault Refusal) :
    thenNext (.next s) f = f s := rfl

/-- The scanner's `advance` answers only inside its precondition and moves only `rx.tail`. -/
theorem advanceRx_eq_next {n : Nat} {s t : State} (h : advanceRx n s = .next t) :
    ∃ q, s.rx.advance s.params.rxCap n = some q ∧ t = { s with rx := q } := by
  unfold advanceRx at h
  split at h
  · rename_i q hq
    exact ⟨q, hq, (Host.Outcome.next.inj h).symm⟩
  · cases h

/-- The frame builder either commits the whole frame to the transmit ring or sets `txOverflow`; nothing else changes
(R103, R104). -/
theorem buildFrame_cases (op : Byte) (payload : List Byte) (s : State) :
    (∃ q, s.tx.enqueueAll s.params.txCap (encodeFrame op payload) = some q ∧
        buildFrame op payload s = { s with tx := q }) ∨
    (s.tx.free s.params.txCap < (encodeFrame op payload).length ∧
        buildFrame op payload s = { s with txOverflow := true }) := by
  unfold buildFrame
  cases h : s.tx.enqueueAll s.params.txCap (encodeFrame op payload) with
  | some q => exact .inl ⟨q, rfl, rfl⟩
  | none =>
    refine .inr ⟨?_, rfl⟩
    unfold Ring.enqueueAll at h
    split at h
    · cases h
    · omega

/-- The scanner's end: the phase moves to Trigger (R94). -/
@[simp] theorem endScan_eq (s : State) : endScan s = .next { s with phase := .trigger } := rfl

/-- The removal of a dispatched frame moves only `rx.tail` and the phase (R100). -/
theorem removeFrame_eq_next {s t : State} (h : removeFrame s = .next t) :
    ∃ q, s.rx.advance s.params.rxCap s.scanLen = some q ∧
      t = { s with rx := q, phase := .trigger, micro := .phaseStep, scanLen := 0 } := by
  obtain ⟨u, hu, he⟩ := thenNext_eq_next h
  obtain ⟨q, hq, rfl⟩ := advanceRx_eq_next hu
  exact ⟨q, hq, (Host.Outcome.next.inj he).symm⟩

/-- The scanner's step removes the noise and then finds a frame, drops a sync, or waits (R94 to R99). -/
theorem scanFrame_eq_next {s t : State} (h : scanFrame s = .next t) :
    ∃ q, s.rx.advance s.params.rxCap (noiseLen s.rxHeld) = some q ∧
      ((∃ op payload, parseFrame (s.params.rxCap - 1) (s.rxHeld.drop (noiseLen s.rxHeld)) = .ok (op, payload) ∧
          t = { s with rx := q, micro := .dispatch, scanLen := payload.length + 7 }) ∨
        ∃ r, parseFrame (s.params.rxCap - 1) (s.rxHeld.drop (noiseLen s.rxHeld)) = .error r ∧
          ((isFramingError r = false ∧ t = { s with rx := q, phase := .trigger }) ∨
            (isFramingError r = true ∧ ∃ q', q.advance s.params.rxCap 4 = some q' ∧
              t = { s with rx := q', phase := .trigger }))) := by
  obtain ⟨u, hu, he⟩ := thenNext_eq_next h
  obtain ⟨q, hq, rfl⟩ := advanceRx_eq_next hu
  refine ⟨q, hq, ?_⟩
  split at he
  · rename_i op payload hp
    exact .inl ⟨op, payload, hp, (Host.Outcome.next.inj he).symm⟩
  · rename_i r hp
    refine .inr ⟨r, hp, ?_⟩
    split at he
    · rename_i hf
      obtain ⟨v, hv, hw⟩ := thenNext_eq_next he
      obtain ⟨q', hq', rfl⟩ := advanceRx_eq_next hv
      exact .inr ⟨hf, q', hq', (Host.Outcome.next.inj hw).symm⟩
    · rename_i hf
      exact .inl ⟨by simpa using hf, (Host.Outcome.next.inj he).symm⟩

/-- The dispatcher's step runs the meaning of the row its opcode selects, or has no effect (R71, R170); the frame is
removed after it. -/
theorem dispatchFrame_eq_next {s t : State} (h : dispatchFrame s = .next t) :
    s.scanLen ≤ s.rx.count s.params.rxCap ∧
      ((∃ i, requestOf (frameOpcode s) (framePayload s) = .ok i ∧ exec i { s with micro := .remove } = .next t) ∨
        ((∃ r, requestOf (frameOpcode s) (framePayload s) = .error r) ∧ t = { s with micro := .remove })) := by
  unfold dispatchFrame at h
  split at h
  · rename_i hc
    refine ⟨hc, ?_⟩
    split at h
    · rename_i i hi
      exact .inl ⟨i, hi, h⟩
    · rename_i r hr
      exact .inr ⟨⟨r, hr⟩, (Host.Outcome.next.inj h).symm⟩
  · cases h

/-- A further critical section of opcode 0x04 or 0x05 completes and moves only `micro` (R49): to the next one or to the frame
builder, with a response row. -/
theorem snapshotStep_cases (kind : SnapKind) (taken : List Half) (s : State) :
    ∃ m, snapshotStep kind taken s = .next { s with intMask := false, micro := m } ∧
      ((∃ r, m = .build r ∧ r.isRequest = false) ∨ (∃ v, m = .snapshot kind (taken ++ [v]))) := by
  unfold snapshotStep
  dsimp only
  split
  · exact ⟨_, rfl, .inl ⟨_, rfl, rfl⟩⟩
  · exact ⟨_, rfl, .inl ⟨_, rfl, rfl⟩⟩
  · exact ⟨_, rfl, .inr ⟨_, rfl⟩⟩

/-- A critical section leaves the interrupts unmasked (R50). -/
@[simp] theorem critical_intMask (body : State → State) (s : State) : (critical body s).intMask = false := rfl

/-- An agent that is not enabled does nothing. -/
theorem runAgent_disabled {a : Agent} {s : State} (h : enabled a s = false) : runAgent a s = .next s := by
  simp [runAgent, h]

/-- An enabled agent takes its step. -/
theorem runAgent_enabled {a : Agent} {s : State} (h : enabled a s = true) : runAgent a s = agentStep a s := by
  simp [runAgent, h]

/-- When it may run, `Main` takes the step of `mainStep`. -/
theorem runAgent_main {s : State} (h : MainRuns s) : runAgent .main s = mainStep s := by
  simp [runAgent, enabled, agentStep, h.rst, h.idle]

/-- The agents enabled now, and no others, are listed. -/
theorem mem_enabledAgents (a : Agent) (s : State) : a ∈ enabledAgents s ↔ enabled a s = true := by
  cases a <;> simp [enabledAgents]

/-- The schedule lets an enabled agent step, or nobody when none is enabled, and draws at most one free value (R212). -/
theorem freeSchedule_cases (s : State) :
    ((∀ a, enabled a s = false) ∧ freeSchedule s = .next s) ∨
      ∃ a, enabled a s = true ∧
        (freeSchedule s = runAgent a s ∨ freeSchedule s = runAgent a { s with draws := s.draws + 1 }) := by
  unfold freeSchedule
  split
  · rename_i h
    refine .inl ⟨fun a => ?_, rfl⟩
    cases he : enabled a s
    · rfl
    · have := (mem_enabledAgents a s).2 he
      simp [h] at this
  · rename_i a h
    exact .inr ⟨a, (mem_enabledAgents a s).1 (by simp [h]), .inl rfl⟩
  · rename_i hne _
    have hpos : 0 < (enabledAgents s).length := List.length_pos_iff.2 hne
    have hlt := Nat.mod_lt (Config.freeChoice s.draws) hpos
    refine .inr ⟨_, (mem_enabledAgents _ s).1 ?_, .inr rfl⟩
    rw [List.getD_eq_getElem _ _ hlt]
    exact List.getElem_mem hlt

/-- A step applies the next input or, with none left, follows the schedule; with a bad build it is refused (R4). -/
theorem stepOnce_eq_next {s t : State} (h : stepOnce s = .next t) :
    s.params.ok = true ∧
      ((∃ i rest, s.inputs = i :: rest ∧ applyInput i { s with inputs := rest } = .next t) ∨
        (s.inputs = [] ∧ freeSchedule s = .next t)) := by
  unfold stepOnce at h
  split at h
  · rename_i hp
    refine ⟨hp, ?_⟩
    split at h
    · rename_i i rest hi
      exact .inl ⟨i, rest, hi, h⟩
    · rename_i hi
      exact .inr ⟨hi, h⟩
  · cases h

/-- The three handlers are the only agents a set mask stops (R29, R50). -/
theorem enabled_handler_unmasked {a : Agent} {s : State} (h : enabled a s = true) :
    a = .main ∨ a = .settle ∨ s.intMask = false := by
  cases a <;> simp_all [enabled]

end Sys2Proof.Machine
end

