-- ==== Sys2Proof/Laws/PerInstr.lean ====
section
/-! SUPPORT. A family of lemmas, one per constructor: the frame of a well-formed instruction is one the format admits. -/
namespace Sys2Proof.Laws.EncodedFrame

/-- A well-formed instruction's frame has 7 to 260 bytes, opens with the sync, and its opcode is one of the table's, so
never 0xAA (R62, R69, R72). -/
def Statement (i : Sys2Proof.Instr) : Prop :=
  i.wellFormed = true →
    7 ≤ (encode i).length ∧ (encode i).length ≤ maxFrameBytes ∧ (encode i).take 4 = syncBytes ∧
      1 ≤ i.opcode.toNat ∧ i.opcode.toNat ≤ 0x0C

/-- The statement from the row's opcode and payload length. -/
theorem of_payload {i : Sys2Proof.Instr} (hop : 1 ≤ i.opcode.toNat ∧ i.opcode.toNat ≤ 0x0C)
    (hlen : i.wellFormed = true → i.payload.length ≤ 253) : Statement i := by
  intro h
  have hl : (encode i).length = i.payload.length + 7 := by
    simp [encode, encodeFrame, syncBytes]
  have := hlen h
  exact ⟨by omega, by unfold maxFrameBytes; omega, by simp [encode, encodeFrame, syncBytes], hop⟩

theorem getIdAndVersion (payload : List Byte) : Statement (.getIdAndVersion payload) :=
  of_payload ⟨by simp [Instr.opcode], by simp [Instr.opcode]⟩
    (fun h => by simpa [Instr.wellFormed, payloadFits, Instr.payload] using h)
theorem getThreshold (payload : List Byte) : Statement (.getThreshold payload) :=
  of_payload ⟨by simp [Instr.opcode], by simp [Instr.opcode]⟩
    (fun h => by simpa [Instr.wellFormed, payloadFits, Instr.payload] using h)
theorem setThreshold (payload : List Byte) : Statement (.setThreshold payload) :=
  of_payload ⟨by simp [Instr.opcode], by simp [Instr.opcode]⟩
    (fun h => by simpa [Instr.wellFormed, payloadFits, Instr.payload] using h)
theorem readCurrentValues (payload : List Byte) : Statement (.readCurrentValues payload) :=
  of_payload ⟨by simp [Instr.opcode], by simp [Instr.opcode]⟩
    (fun h => by simpa [Instr.wellFormed, payloadFits, Instr.payload] using h)
theorem readCurrentAverages (payload : List Byte) : Statement (.readCurrentAverages payload) :=
  of_payload ⟨by simp [Instr.opcode], by simp [Instr.opcode]⟩
    (fun h => by simpa [Instr.wellFormed, payloadFits, Instr.payload] using h)
theorem setTriggerMode (payload : List Byte) : Statement (.setTriggerMode payload) :=
  of_payload ⟨by simp [Instr.opcode], by simp [Instr.opcode]⟩
    (fun h => by simpa [Instr.wellFormed, payloadFits, Instr.payload] using h)
theorem getTriggerMode (payload : List Byte) : Statement (.getTriggerMode payload) :=
  of_payload ⟨by simp [Instr.opcode], by simp [Instr.opcode]⟩
    (fun h => by simpa [Instr.wellFormed, payloadFits, Instr.payload] using h)
theorem reset (payload : List Byte) : Statement (.reset payload) :=
  of_payload ⟨by simp [Instr.opcode], by simp [Instr.opcode]⟩
    (fun h => by simpa [Instr.wellFormed, payloadFits, Instr.payload] using h)
theorem recalibrate (payload : List Byte) : Statement (.recalibrate payload) :=
  of_payload ⟨by simp [Instr.opcode], by simp [Instr.opcode]⟩
    (fun h => by simpa [Instr.wellFormed, payloadFits, Instr.payload] using h)
theorem storeSettings (payload : List Byte) : Statement (.storeSettings payload) :=
  of_payload ⟨by simp [Instr.opcode], by simp [Instr.opcode]⟩
    (fun h => by simpa [Instr.wellFormed, payloadFits, Instr.payload] using h)
theorem getAlpha (payload : List Byte) : Statement (.getAlpha payload) :=
  of_payload ⟨by simp [Instr.opcode], by simp [Instr.opcode]⟩
    (fun h => by simpa [Instr.wellFormed, payloadFits, Instr.payload] using h)
theorem setAlpha (payload : List Byte) : Statement (.setAlpha payload) :=
  of_payload ⟨by simp [Instr.opcode], by simp [Instr.opcode]⟩
    (fun h => by simpa [Instr.wellFormed, payloadFits, Instr.payload] using h)
theorem getIdAndVersionResp (identifier : List Byte) (version : Byte) :
    Statement (.getIdAndVersionResp identifier version) :=
  of_payload ⟨by simp [Instr.opcode], by simp [Instr.opcode]⟩ (fun h => by
    have : identifier.length = 16 := by simpa [Instr.wellFormed] using h
    simp [Instr.payload, this])
theorem getThresholdResp (threshold : Byte) : Statement (.getThresholdResp threshold) :=
  of_payload ⟨by simp [Instr.opcode], by simp [Instr.opcode]⟩ (fun _ => by simp [Instr.payload])
theorem readCurrentValuesResp (raw0 raw1 raw2 raw3 : Half) : Statement (.readCurrentValuesResp raw0 raw1 raw2 raw3) :=
  of_payload ⟨by simp [Instr.opcode], by simp [Instr.opcode]⟩ (fun _ => by simp [Instr.payload, fourHalves, le16Bytes])
theorem readCurrentAveragesResp (avg0 avg1 avg2 avg3 : Half) :
    Statement (.readCurrentAveragesResp avg0 avg1 avg2 avg3) :=
  of_payload ⟨by simp [Instr.opcode], by simp [Instr.opcode]⟩ (fun _ => by simp [Instr.payload, fourHalves, le16Bytes])
theorem getTriggerModeResp (mode : Byte) : Statement (.getTriggerModeResp mode) :=
  of_payload ⟨by simp [Instr.opcode], by simp [Instr.opcode]⟩ (fun _ => by simp [Instr.payload])
theorem getAlphaResp (percent : Byte) : Statement (.getAlphaResp percent) :=
  of_payload ⟨by simp [Instr.opcode], by simp [Instr.opcode]⟩ (fun _ => by simp [Instr.payload])

end Sys2Proof.Laws.EncodedFrame
end

