-- ==== Sys2Proof/Laws/State.lean ====
section
/-! SUPPORT. One lemma per field of State for each named register update. -/
namespace Sys2Proof.Machine

/-! ## `enterCritical` -/

@[simp] theorem enterCritical_params (s : State) : (enterCritical s).params = s.params := rfl
@[simp] theorem enterCritical_rst (s : State) : (enterCritical s).rst = s.rst := rfl
@[simp] theorem enterCritical_probeActive (s : State) : (enterCritical s).probeActive = s.probeActive := rfl
@[simp] theorem enterCritical_ch (s : State) : (enterCritical s).ch = s.ch := rfl
@[simp] theorem enterCritical_phase (s : State) : (enterCritical s).phase = s.phase := rfl
@[simp] theorem enterCritical_chanIdx (s : State) : (enterCritical s).chanIdx = s.chanIdx := rfl
@[simp] theorem enterCritical_calCycle (s : State) : (enterCritical s).calCycle = s.calCycle := rfl
@[simp] theorem enterCritical_muxSel (s : State) : (enterCritical s).muxSel = s.muxSel := rfl
@[simp] theorem enterCritical_triggered (s : State) : (enterCritical s).triggered = s.triggered := rfl
@[simp] theorem enterCritical_txOverflow (s : State) : (enterCritical s).txOverflow = s.txOverflow := rfl
@[simp] theorem enterCritical_trigOut (s : State) : (enterCritical s).trigOut = s.trigOut := rfl
@[simp] theorem enterCritical_intMask (s : State) : (enterCritical s).intMask = true := rfl
@[simp] theorem enterCritical_mainBusy (s : State) : (enterCritical s).mainBusy = s.mainBusy := rfl
@[simp] theorem enterCritical_settings (s : State) : (enterCritical s).settings = s.settings := rfl
@[simp] theorem enterCritical_calRemaining (s : State) : (enterCritical s).calRemaining = s.calRemaining := rfl
@[simp] theorem enterCritical_debounce (s : State) : (enterCritical s).debounce = s.debounce := rfl
@[simp] theorem enterCritical_clock (s : State) : (enterCritical s).clock = s.clock := rfl
@[simp] theorem enterCritical_rx (s : State) : (enterCritical s).rx = s.rx := rfl
@[simp] theorem enterCritical_tx (s : State) : (enterCritical s).tx = s.tx := rfl
@[simp] theorem enterCritical_nv (s : State) : (enterCritical s).nv = s.nv := rfl
@[simp] theorem enterCritical_pendTick (s : State) : (enterCritical s).pendTick = s.pendTick := rfl
@[simp] theorem enterCritical_pendConv (s : State) : (enterCritical s).pendConv = s.pendConv := rfl
@[simp] theorem enterCritical_pendBus (s : State) : (enterCritical s).pendBus = s.pendBus := rfl
@[simp] theorem enterCritical_boot (s : State) : (enterCritical s).boot = s.boot := rfl
@[simp] theorem enterCritical_micro (s : State) : (enterCritical s).micro = s.micro := rfl
@[simp] theorem enterCritical_scanLen (s : State) : (enterCritical s).scanLen = s.scanLen := rfl
@[simp] theorem enterCritical_inputs (s : State) : (enterCritical s).inputs = s.inputs := rfl
@[simp] theorem enterCritical_busRead (s : State) : (enterCritical s).busRead = s.busRead := rfl
@[simp] theorem enterCritical_busErr (s : State) : (enterCritical s).busErr = s.busErr := rfl
@[simp] theorem enterCritical_draws (s : State) : (enterCritical s).draws = s.draws := rfl

/-! ## `leaveCritical` -/

@[simp] theorem leaveCritical_params (s : State) : (leaveCritical s).params = s.params := rfl
@[simp] theorem leaveCritical_rst (s : State) : (leaveCritical s).rst = s.rst := rfl
@[simp] theorem leaveCritical_probeActive (s : State) : (leaveCritical s).probeActive = s.probeActive := rfl
@[simp] theorem leaveCritical_ch (s : State) : (leaveCritical s).ch = s.ch := rfl
@[simp] theorem leaveCritical_phase (s : State) : (leaveCritical s).phase = s.phase := rfl
@[simp] theorem leaveCritical_chanIdx (s : State) : (leaveCritical s).chanIdx = s.chanIdx := rfl
@[simp] theorem leaveCritical_calCycle (s : State) : (leaveCritical s).calCycle = s.calCycle := rfl
@[simp] theorem leaveCritical_muxSel (s : State) : (leaveCritical s).muxSel = s.muxSel := rfl
@[simp] theorem leaveCritical_triggered (s : State) : (leaveCritical s).triggered = s.triggered := rfl
@[simp] theorem leaveCritical_txOverflow (s : State) : (leaveCritical s).txOverflow = s.txOverflow := rfl
@[simp] theorem leaveCritical_trigOut (s : State) : (leaveCritical s).trigOut = s.trigOut := rfl
@[simp] theorem leaveCritical_intMask (s : State) : (leaveCritical s).intMask = false := rfl
@[simp] theorem leaveCritical_mainBusy (s : State) : (leaveCritical s).mainBusy = s.mainBusy := rfl
@[simp] theorem leaveCritical_settings (s : State) : (leaveCritical s).settings = s.settings := rfl
@[simp] theorem leaveCritical_calRemaining (s : State) : (leaveCritical s).calRemaining = s.calRemaining := rfl
@[simp] theorem leaveCritical_debounce (s : State) : (leaveCritical s).debounce = s.debounce := rfl
@[simp] theorem leaveCritical_clock (s : State) : (leaveCritical s).clock = s.clock := rfl
@[simp] theorem leaveCritical_rx (s : State) : (leaveCritical s).rx = s.rx := rfl
@[simp] theorem leaveCritical_tx (s : State) : (leaveCritical s).tx = s.tx := rfl
@[simp] theorem leaveCritical_nv (s : State) : (leaveCritical s).nv = s.nv := rfl
@[simp] theorem leaveCritical_pendTick (s : State) : (leaveCritical s).pendTick = s.pendTick := rfl
@[simp] theorem leaveCritical_pendConv (s : State) : (leaveCritical s).pendConv = s.pendConv := rfl
@[simp] theorem leaveCritical_pendBus (s : State) : (leaveCritical s).pendBus = s.pendBus := rfl
@[simp] theorem leaveCritical_boot (s : State) : (leaveCritical s).boot = s.boot := rfl
@[simp] theorem leaveCritical_micro (s : State) : (leaveCritical s).micro = s.micro := rfl
@[simp] theorem leaveCritical_scanLen (s : State) : (leaveCritical s).scanLen = s.scanLen := rfl
@[simp] theorem leaveCritical_inputs (s : State) : (leaveCritical s).inputs = s.inputs := rfl
@[simp] theorem leaveCritical_busRead (s : State) : (leaveCritical s).busRead = s.busRead := rfl
@[simp] theorem leaveCritical_busErr (s : State) : (leaveCritical s).busErr = s.busErr := rfl
@[simp] theorem leaveCritical_draws (s : State) : (leaveCritical s).draws = s.draws := rfl

/-! ## `setChan` -/

@[simp] theorem setChan_params (s : State) (c : BitVec 2) (x : Channel) : (s.setChan c x).params = s.params := rfl
@[simp] theorem setChan_rst (s : State) (c : BitVec 2) (x : Channel) : (s.setChan c x).rst = s.rst := rfl
@[simp] theorem setChan_probeActive (s : State) (c : BitVec 2) (x : Channel) : (s.setChan c x).probeActive = s.probeActive := rfl
@[simp] theorem setChan_ch (s : State) (c : BitVec 2) (x : Channel) : (s.setChan c x).ch = s.ch.set c.toNat x c.isLt := rfl
@[simp] theorem setChan_phase (s : State) (c : BitVec 2) (x : Channel) : (s.setChan c x).phase = s.phase := rfl
@[simp] theorem setChan_chanIdx (s : State) (c : BitVec 2) (x : Channel) : (s.setChan c x).chanIdx = s.chanIdx := rfl
@[simp] theorem setChan_calCycle (s : State) (c : BitVec 2) (x : Channel) : (s.setChan c x).calCycle = s.calCycle := rfl
@[simp] theorem setChan_muxSel (s : State) (c : BitVec 2) (x : Channel) : (s.setChan c x).muxSel = s.muxSel := rfl
@[simp] theorem setChan_triggered (s : State) (c : BitVec 2) (x : Channel) : (s.setChan c x).triggered = s.triggered := rfl
@[simp] theorem setChan_txOverflow (s : State) (c : BitVec 2) (x : Channel) : (s.setChan c x).txOverflow = s.txOverflow := rfl
@[simp] theorem setChan_trigOut (s : State) (c : BitVec 2) (x : Channel) : (s.setChan c x).trigOut = s.trigOut := rfl
@[simp] theorem setChan_intMask (s : State) (c : BitVec 2) (x : Channel) : (s.setChan c x).intMask = s.intMask := rfl
@[simp] theorem setChan_mainBusy (s : State) (c : BitVec 2) (x : Channel) : (s.setChan c x).mainBusy = s.mainBusy := rfl
@[simp] theorem setChan_settings (s : State) (c : BitVec 2) (x : Channel) : (s.setChan c x).settings = s.settings := rfl
@[simp] theorem setChan_calRemaining (s : State) (c : BitVec 2) (x : Channel) : (s.setChan c x).calRemaining = s.calRemaining := rfl
@[simp] theorem setChan_debounce (s : State) (c : BitVec 2) (x : Channel) : (s.setChan c x).debounce = s.debounce := rfl
@[simp] theorem setChan_clock (s : State) (c : BitVec 2) (x : Channel) : (s.setChan c x).clock = s.clock := rfl
@[simp] theorem setChan_rx (s : State) (c : BitVec 2) (x : Channel) : (s.setChan c x).rx = s.rx := rfl
@[simp] theorem setChan_tx (s : State) (c : BitVec 2) (x : Channel) : (s.setChan c x).tx = s.tx := rfl
@[simp] theorem setChan_nv (s : State) (c : BitVec 2) (x : Channel) : (s.setChan c x).nv = s.nv := rfl
@[simp] theorem setChan_pendTick (s : State) (c : BitVec 2) (x : Channel) : (s.setChan c x).pendTick = s.pendTick := rfl
@[simp] theorem setChan_pendConv (s : State) (c : BitVec 2) (x : Channel) : (s.setChan c x).pendConv = s.pendConv := rfl
@[simp] theorem setChan_pendBus (s : State) (c : BitVec 2) (x : Channel) : (s.setChan c x).pendBus = s.pendBus := rfl
@[simp] theorem setChan_boot (s : State) (c : BitVec 2) (x : Channel) : (s.setChan c x).boot = s.boot := rfl
@[simp] theorem setChan_micro (s : State) (c : BitVec 2) (x : Channel) : (s.setChan c x).micro = s.micro := rfl
@[simp] theorem setChan_scanLen (s : State) (c : BitVec 2) (x : Channel) : (s.setChan c x).scanLen = s.scanLen := rfl
@[simp] theorem setChan_inputs (s : State) (c : BitVec 2) (x : Channel) : (s.setChan c x).inputs = s.inputs := rfl
@[simp] theorem setChan_busRead (s : State) (c : BitVec 2) (x : Channel) : (s.setChan c x).busRead = s.busRead := rfl
@[simp] theorem setChan_busErr (s : State) (c : BitVec 2) (x : Channel) : (s.setChan c x).busErr = s.busErr := rfl
@[simp] theorem setChan_draws (s : State) (c : BitVec 2) (x : Channel) : (s.setChan c x).draws = s.draws := rfl

/-! ## `nvWrite` -/

@[simp] theorem nvWrite_params (s : State) (block : List Byte) : (nvWrite block s).params = s.params := rfl
@[simp] theorem nvWrite_rst (s : State) (block : List Byte) : (nvWrite block s).rst = s.rst := rfl
@[simp] theorem nvWrite_probeActive (s : State) (block : List Byte) : (nvWrite block s).probeActive = s.probeActive := rfl
@[simp] theorem nvWrite_ch (s : State) (block : List Byte) : (nvWrite block s).ch = s.ch := rfl
@[simp] theorem nvWrite_phase (s : State) (block : List Byte) : (nvWrite block s).phase = s.phase := rfl
@[simp] theorem nvWrite_chanIdx (s : State) (block : List Byte) : (nvWrite block s).chanIdx = s.chanIdx := rfl
@[simp] theorem nvWrite_calCycle (s : State) (block : List Byte) : (nvWrite block s).calCycle = s.calCycle := rfl
@[simp] theorem nvWrite_muxSel (s : State) (block : List Byte) : (nvWrite block s).muxSel = s.muxSel := rfl
@[simp] theorem nvWrite_triggered (s : State) (block : List Byte) : (nvWrite block s).triggered = s.triggered := rfl
@[simp] theorem nvWrite_txOverflow (s : State) (block : List Byte) : (nvWrite block s).txOverflow = s.txOverflow := rfl
@[simp] theorem nvWrite_trigOut (s : State) (block : List Byte) : (nvWrite block s).trigOut = s.trigOut := rfl
@[simp] theorem nvWrite_intMask (s : State) (block : List Byte) : (nvWrite block s).intMask = s.intMask := rfl
@[simp] theorem nvWrite_mainBusy (s : State) (block : List Byte) : (nvWrite block s).mainBusy = s.mainBusy := rfl
@[simp] theorem nvWrite_settings (s : State) (block : List Byte) : (nvWrite block s).settings = s.settings := rfl
@[simp] theorem nvWrite_calRemaining (s : State) (block : List Byte) : (nvWrite block s).calRemaining = s.calRemaining := rfl
@[simp] theorem nvWrite_debounce (s : State) (block : List Byte) : (nvWrite block s).debounce = s.debounce := rfl
@[simp] theorem nvWrite_clock (s : State) (block : List Byte) : (nvWrite block s).clock = s.clock := rfl
@[simp] theorem nvWrite_rx (s : State) (block : List Byte) : (nvWrite block s).rx = s.rx := rfl
@[simp] theorem nvWrite_tx (s : State) (block : List Byte) : (nvWrite block s).tx = s.tx := rfl
@[simp] theorem nvWrite_nv (s : State) (block : List Byte) : (nvWrite block s).nv = Memory.writeRun nvBytes [] 0 block := rfl
@[simp] theorem nvWrite_pendTick (s : State) (block : List Byte) : (nvWrite block s).pendTick = s.pendTick := rfl
@[simp] theorem nvWrite_pendConv (s : State) (block : List Byte) : (nvWrite block s).pendConv = s.pendConv := rfl
@[simp] theorem nvWrite_pendBus (s : State) (block : List Byte) : (nvWrite block s).pendBus = s.pendBus := rfl
@[simp] theorem nvWrite_boot (s : State) (block : List Byte) : (nvWrite block s).boot = s.boot := rfl
@[simp] theorem nvWrite_micro (s : State) (block : List Byte) : (nvWrite block s).micro = s.micro := rfl
@[simp] theorem nvWrite_scanLen (s : State) (block : List Byte) : (nvWrite block s).scanLen = s.scanLen := rfl
@[simp] theorem nvWrite_inputs (s : State) (block : List Byte) : (nvWrite block s).inputs = s.inputs := rfl
@[simp] theorem nvWrite_busRead (s : State) (block : List Byte) : (nvWrite block s).busRead = s.busRead := rfl
@[simp] theorem nvWrite_busErr (s : State) (block : List Byte) : (nvWrite block s).busErr = s.busErr := rfl
@[simp] theorem nvWrite_draws (s : State) (block : List Byte) : (nvWrite block s).draws = s.draws := rfl

/-! ## `mapChannels` -/

@[simp] theorem mapChannels_params (s : State) (f : Channel → Channel) : (mapChannels f s).params = s.params := rfl
@[simp] theorem mapChannels_rst (s : State) (f : Channel → Channel) : (mapChannels f s).rst = s.rst := rfl
@[simp] theorem mapChannels_probeActive (s : State) (f : Channel → Channel) : (mapChannels f s).probeActive = s.probeActive := rfl
@[simp] theorem mapChannels_phase (s : State) (f : Channel → Channel) : (mapChannels f s).phase = s.phase := rfl
@[simp] theorem mapChannels_chanIdx (s : State) (f : Channel → Channel) : (mapChannels f s).chanIdx = s.chanIdx := rfl
@[simp] theorem mapChannels_calCycle (s : State) (f : Channel → Channel) : (mapChannels f s).calCycle = s.calCycle := rfl
@[simp] theorem mapChannels_muxSel (s : State) (f : Channel → Channel) : (mapChannels f s).muxSel = s.muxSel := rfl
@[simp] theorem mapChannels_triggered (s : State) (f : Channel → Channel) : (mapChannels f s).triggered = s.triggered := rfl
@[simp] theorem mapChannels_txOverflow (s : State) (f : Channel → Channel) : (mapChannels f s).txOverflow = s.txOverflow := rfl
@[simp] theorem mapChannels_trigOut (s : State) (f : Channel → Channel) : (mapChannels f s).trigOut = s.trigOut := rfl
@[simp] theorem mapChannels_intMask (s : State) (f : Channel → Channel) : (mapChannels f s).intMask = s.intMask := rfl
@[simp] theorem mapChannels_mainBusy (s : State) (f : Channel → Channel) : (mapChannels f s).mainBusy = s.mainBusy := rfl
@[simp] theorem mapChannels_settings (s : State) (f : Channel → Channel) : (mapChannels f s).settings = s.settings := rfl
@[simp] theorem mapChannels_calRemaining (s : State) (f : Channel → Channel) : (mapChannels f s).calRemaining = s.calRemaining := rfl
@[simp] theorem mapChannels_debounce (s : State) (f : Channel → Channel) : (mapChannels f s).debounce = s.debounce := rfl
@[simp] theorem mapChannels_clock (s : State) (f : Channel → Channel) : (mapChannels f s).clock = s.clock := rfl
@[simp] theorem mapChannels_rx (s : State) (f : Channel → Channel) : (mapChannels f s).rx = s.rx := rfl
@[simp] theorem mapChannels_tx (s : State) (f : Channel → Channel) : (mapChannels f s).tx = s.tx := rfl
@[simp] theorem mapChannels_nv (s : State) (f : Channel → Channel) : (mapChannels f s).nv = s.nv := rfl
@[simp] theorem mapChannels_pendTick (s : State) (f : Channel → Channel) : (mapChannels f s).pendTick = s.pendTick := rfl
@[simp] theorem mapChannels_pendConv (s : State) (f : Channel → Channel) : (mapChannels f s).pendConv = s.pendConv := rfl
@[simp] theorem mapChannels_pendBus (s : State) (f : Channel → Channel) : (mapChannels f s).pendBus = s.pendBus := rfl
@[simp] theorem mapChannels_boot (s : State) (f : Channel → Channel) : (mapChannels f s).boot = s.boot := rfl
@[simp] theorem mapChannels_micro (s : State) (f : Channel → Channel) : (mapChannels f s).micro = s.micro := rfl
@[simp] theorem mapChannels_scanLen (s : State) (f : Channel → Channel) : (mapChannels f s).scanLen = s.scanLen := rfl
@[simp] theorem mapChannels_inputs (s : State) (f : Channel → Channel) : (mapChannels f s).inputs = s.inputs := rfl
@[simp] theorem mapChannels_busRead (s : State) (f : Channel → Channel) : (mapChannels f s).busRead = s.busRead := rfl
@[simp] theorem mapChannels_busErr (s : State) (f : Channel → Channel) : (mapChannels f s).busErr = s.busErr := rfl
@[simp] theorem mapChannels_draws (s : State) (f : Channel → Channel) : (mapChannels f s).draws = s.draws := rfl

/-- Every channel is mapped. -/
@[simp] theorem chan_mapChannels (s : State) (f : Channel → Channel) (c : BitVec 2) :
    (mapChannels f s).chan c = f (s.chan c) := by
  have h : c = 0 ∨ c = 1 ∨ c = 2 ∨ c = 3 := by revert c; decide
  rcases h with rfl | rfl | rfl | rfl <;> rfl

/-! ## `answer` -/

@[simp] theorem answer_micro (s : State) (r : Instr) : (answer r s).micro = .build r := rfl
@[simp] theorem answer_params (s : State) (r : Instr) : (answer r s).params = s.params := rfl
@[simp] theorem answer_rst (s : State) (r : Instr) : (answer r s).rst = s.rst := rfl
@[simp] theorem answer_probeActive (s : State) (r : Instr) : (answer r s).probeActive = s.probeActive := rfl
@[simp] theorem answer_ch (s : State) (r : Instr) : (answer r s).ch = s.ch := rfl
@[simp] theorem answer_phase (s : State) (r : Instr) : (answer r s).phase = s.phase := rfl
@[simp] theorem answer_chanIdx (s : State) (r : Instr) : (answer r s).chanIdx = s.chanIdx := rfl
@[simp] theorem answer_calCycle (s : State) (r : Instr) : (answer r s).calCycle = s.calCycle := rfl
@[simp] theorem answer_muxSel (s : State) (r : Instr) : (answer r s).muxSel = s.muxSel := rfl
@[simp] theorem answer_triggered (s : State) (r : Instr) : (answer r s).triggered = s.triggered := rfl
@[simp] theorem answer_txOverflow (s : State) (r : Instr) : (answer r s).txOverflow = s.txOverflow := rfl
@[simp] theorem answer_trigOut (s : State) (r : Instr) : (answer r s).trigOut = s.trigOut := rfl
@[simp] theorem answer_intMask (s : State) (r : Instr) : (answer r s).intMask = s.intMask := rfl
@[simp] theorem answer_mainBusy (s : State) (r : Instr) : (answer r s).mainBusy = s.mainBusy := rfl
@[simp] theorem answer_settings (s : State) (r : Instr) : (answer r s).settings = s.settings := rfl
@[simp] theorem answer_calRemaining (s : State) (r : Instr) : (answer r s).calRemaining = s.calRemaining := rfl
@[simp] theorem answer_debounce (s : State) (r : Instr) : (answer r s).debounce = s.debounce := rfl
@[simp] theorem answer_clock (s : State) (r : Instr) : (answer r s).clock = s.clock := rfl
@[simp] theorem answer_rx (s : State) (r : Instr) : (answer r s).rx = s.rx := rfl
@[simp] theorem answer_tx (s : State) (r : Instr) : (answer r s).tx = s.tx := rfl
@[simp] theorem answer_nv (s : State) (r : Instr) : (answer r s).nv = s.nv := rfl
@[simp] theorem answer_pendTick (s : State) (r : Instr) : (answer r s).pendTick = s.pendTick := rfl
@[simp] theorem answer_pendConv (s : State) (r : Instr) : (answer r s).pendConv = s.pendConv := rfl
@[simp] theorem answer_pendBus (s : State) (r : Instr) : (answer r s).pendBus = s.pendBus := rfl
@[simp] theorem answer_boot (s : State) (r : Instr) : (answer r s).boot = s.boot := rfl
@[simp] theorem answer_scanLen (s : State) (r : Instr) : (answer r s).scanLen = s.scanLen := rfl
@[simp] theorem answer_inputs (s : State) (r : Instr) : (answer r s).inputs = s.inputs := rfl
@[simp] theorem answer_busRead (s : State) (r : Instr) : (answer r s).busRead = s.busRead := rfl
@[simp] theorem answer_busErr (s : State) (r : Instr) : (answer r s).busErr = s.busErr := rfl
@[simp] theorem answer_draws (s : State) (r : Instr) : (answer r s).draws = s.draws := rfl

/-! ## Reading a channel back -/

/-- A channel written reads as written. -/
@[simp] theorem chan_setChan_self (s : State) (c : BitVec 2) (x : Channel) : (s.setChan c x).chan c = x := by
  simp [State.chan, State.setChan]

/-- Another channel keeps its registers. -/
theorem chan_setChan_other (s : State) (c d : BitVec 2) (x : Channel) (h : c ≠ d) :
    (s.setChan c x).chan d = s.chan d := by
  have hne : c.toNat ≠ d.toNat := fun e => h (BitVec.eq_of_toNat_eq e)
  simp [State.chan, State.setChan, Vector.getElem_set_ne, hne]

end Sys2Proof.Machine
end

