-- ==== Sys2Proof/Tests/Slice0.lean ====
section
/-! SUPPORT. Small tests on fixed values and, for every statement with hypotheses, a witness that meets them. Expected
values come from `spec/95_test_vectors.md` (cited by section) or are worked out by hand from the rule named. -/
namespace Sys2Proof.Tests
open Sys2Proof.Machine

/-! ## Helpers -/

/-- The outcome is a next state with this property. -/
def after (o : Host.Outcome State Fault Refusal) (p : State → Bool) : Bool :=
  match o with
  | .next t => p t
  | .fault _ => false
  | .refused _ => false

/-- The settings most vectors of section 8 start from: `(1, 10, 0.25, 100, 50)`. -/
def someSettings : Settings := ⟨1, 10, 0x3E800000, 100, 50⟩

/-- Boot over, rings empty, Armed, at the Scan phase. -/
def base : State := { placeBytes [] State.reset with settings := someSettings }

/-- The same with these bytes in the receive ring, and a good frame at their head found by the scanner. -/
def got (bytes : List Byte) : State := placeBytes bytes base

/-- The same with the Scan phase still to be taken. -/
def arrived (bytes : List Byte) : State := { got bytes with micro := .phaseStep, scanLen := 0 }

/-- The same with all four channels alike. -/
def channels (x : Channel) (s : State) : State := { s with ch := #v[x, x, x, x] }

/-- What a test compares of two decoding results. -/
def sameInstr (r : Except Reject Instr) (i : Instr) : Bool :=
  match r with
  | .ok j => decide (j = i)
  | .error _ => false

/-- What a test compares of a rejection. -/
def sameReject {α : Type} (r : Except Reject α) (e : Reject) : Bool :=
  match r with
  | .ok _ => false
  | .error f => decide (f = e)

/-- `RingOk` as a Boolean. -/
def ringB (cap : Nat) (q : Ring) : Bool :=
  decide (q.head.toNat < cap) && decide (q.tail.toNat < cap) && Memory.wf q.storage && Memory.within cap q.storage

theorem ringB_sound {cap : Nat} {q : Ring} (h : ringB cap q = true) : RingOk cap q := by
  simp only [ringB, Bool.and_eq_true, decide_eq_true_eq] at h
  exact ⟨h.1.1.1, h.1.1.2, h.1.2, h.2⟩

/-- `FrameHeld` as a Boolean. -/
def heldB (s : State) : Bool :=
  decide (s.phase = .scan) && decide (7 ≤ s.scanLen) && decide (s.scanLen ≤ s.rx.count s.params.rxCap)

theorem heldB_sound {s : State} (h : heldB s = true) : FrameHeld s := by
  simp only [heldB, Bool.and_eq_true, decide_eq_true_eq] at h
  exact ⟨h.1.1, h.1.2, h.2⟩

/-- `Invariant` as a Boolean. -/
def invB (s : State) : Bool :=
  s.params.ok && ringB s.params.rxCap s.rx && ringB s.params.txCap s.tx && Memory.wf s.nv && Memory.within nvBytes s.nv &&
  ([0, 1, 2, 3] : List (BitVec 2)).all (fun c => decide ((s.chan c).rawSample.toNat < 2 ^ s.params.adcBits)) &&
  s.pendConv.all (fun raw => decide (raw.toNat < 2 ^ s.params.adcBits)) &&
  decide (s.clock.microFraction.toNat < s.params.fractMax) && decide (s.intMask = true ↔ s.boot ≠ .done) &&
  decide (s.debounce.counter ≠ 0 → s.trigOut = true) &&
  decide (s.trigOut = true → s.debounce.counter = 0 → s.phase = .debounce) &&
  decide (s.boot ≠ .done → s.phase = .scan ∧ s.micro = .phaseStep) &&
  decide (s.micro ≠ .phaseStep → heldB s = true) && decide (s.micro = .phaseStep → s.scanLen = 0) &&
  (match s.micro with
    | .phaseStep => true
    | .dispatch => true
    | .snapshot _ taken => decide (1 ≤ taken.length ∧ taken.length ≤ 3)
    | .build response => !response.isRequest
    | .remove => true) &&
  decide (s.mainBusy = true → s.boot = .done → s.micro = .remove)

theorem allChannels {p : BitVec 2 → Prop} [DecidablePred p]
    (h : ([0, 1, 2, 3] : List (BitVec 2)).all (fun c => decide (p c)) = true) (c : BitVec 2) : p c := by
  simp only [List.all_cons, List.all_nil, Bool.and_true, Bool.and_eq_true, decide_eq_true_eq] at h
  have hc : c = 0 ∨ c = 1 ∨ c = 2 ∨ c = 3 := by revert c; decide
  rcases hc with rfl | rfl | rfl | rfl
  exacts [h.1, h.2.1, h.2.2.1, h.2.2.2]

theorem invB_sound {s : State} (h : invB s = true) : Invariant s := by
  simp only [invB, Bool.and_eq_true, decide_eq_true_eq] at h
  obtain ⟨⟨⟨⟨⟨⟨⟨⟨⟨⟨⟨⟨⟨⟨⟨h1, h2⟩, h3⟩, h4⟩, h5⟩, h6⟩, h7⟩, h8⟩, h9⟩, h10⟩, h11⟩, h12⟩, h13⟩, h14⟩, h15⟩, h16⟩ := h
  exact ⟨h1, ringB_sound h2, ringB_sound h3, h4, h5, allChannels h6,
    fun raw hr => by simpa [Option.mem_def.mp hr] using h7, h8, h9, h10, h11, h12,
    fun hm => heldB_sound (h13 hm), h14, fun k t hm => by simpa [hm] using h15, fun r hm => by simpa [hm] using h15, h16⟩

/-- `MainRuns` as a Boolean. -/
def runsB (s : State) : Bool := decide (s.rst = false) && decide (s.boot = .done) && decide (s.mainBusy = false)

theorem runsB_sound {s : State} (h : runsB s = true) : MainRuns s := by
  simp only [runsB, Bool.and_eq_true, decide_eq_true_eq] at h
  exact ⟨h.1.1, h.1.2, h.2⟩

/-- `MainReady` as a Boolean. -/
def readyB (s : State) : Bool := runsB s && decide (s.micro = .phaseStep)

theorem readyB_sound {s : State} (h : readyB s = true) : MainReady s := by
  simp only [readyB, Bool.and_eq_true, decide_eq_true_eq] at h
  exact ⟨runsB_sound h.1, h.2⟩

/-! ## WellFormed refuses -/

theorem test_wf_payload_254 : (Instr.setThreshold (List.replicate 254 0x00)).wellFormed = false := by decide +kernel
theorem test_wf_payload_253 : (Instr.setThreshold (List.replicate 253 0x00)).wellFormed = true := by decide +kernel
theorem test_wf_identifier_15 : (Instr.getIdAndVersionResp (List.replicate 15 0x00) 0x01).wellFormed = false := by decide
theorem test_wf_percent_101 : (Instr.getAlphaResp 101).wellFormed = false := by decide
theorem test_wf_percent_100 : (Instr.getAlphaResp 100).wellFormed = true := by decide

/-! ## Decoding: every constructor from a word written out from the spec (sections 3.1, 3.2) -/

theorem test_decode_getIdAndVersion :
    sameInstr (decode [0xAA, 0x55, 0xAA, 0x55, 0x01, 0x02, 0x03])
      (.getIdAndVersion []) = true := by decide
theorem test_decode_getThreshold :
    sameInstr (decode [0xAA, 0x55, 0xAA, 0x55, 0x02, 0x02, 0x00])
      (.getThreshold []) = true := by decide
theorem test_decode_setThreshold :
    sameInstr (decode [0xAA, 0x55, 0xAA, 0x55, 0x03, 0x03, 0x07, 0x07])
      (.setThreshold [0x07]) = true := by decide
theorem test_decode_readCurrentValues :
    sameInstr (decode [0xAA, 0x55, 0xAA, 0x55, 0x04, 0x02, 0x06])
      (.readCurrentValues []) = true := by decide
theorem test_decode_readCurrentAverages :
    sameInstr (decode [0xAA, 0x55, 0xAA, 0x55, 0x05, 0x02, 0x07])
      (.readCurrentAverages []) = true := by decide
theorem test_decode_setTriggerMode :
    sameInstr (decode [0xAA, 0x55, 0xAA, 0x55, 0x06, 0x03, 0x04, 0x01])
      (.setTriggerMode [0x04]) = true := by decide
theorem test_decode_getTriggerMode :
    sameInstr (decode [0xAA, 0x55, 0xAA, 0x55, 0x07, 0x02, 0x05])
      (.getTriggerMode []) = true := by decide
theorem test_decode_reset :
    sameInstr (decode [0xAA, 0x55, 0xAA, 0x55, 0x08, 0x02, 0x0A])
      (.reset []) = true := by decide
theorem test_decode_recalibrate :
    sameInstr (decode [0xAA, 0x55, 0xAA, 0x55, 0x09, 0x02, 0x0B])
      (.recalibrate []) = true := by decide
theorem test_decode_storeSettings :
    sameInstr (decode [0xAA, 0x55, 0xAA, 0x55, 0x0A, 0x02, 0x08])
      (.storeSettings []) = true := by decide
theorem test_decode_getAlpha :
    sameInstr (decode [0xAA, 0x55, 0xAA, 0x55, 0x0B, 0x02, 0x09])
      (.getAlpha []) = true := by decide
theorem test_decode_setAlpha :
    sameInstr (decode [0xAA, 0x55, 0xAA, 0x55, 0x0C, 0x03, 0xFF, 0xF0])
      (.setAlpha [0xFF]) = true := by decide
theorem test_decode_getIdAndVersionResp :
    sameInstr (decodeResponse [0xAA, 0x55, 0xAA, 0x55, 0x01, 0x13, 0x00, 0x01, 0x02, 0x03, 0x04, 0x05, 0x06, 0x07, 0x08, 0x09,
        0x0A, 0x0B, 0x0C, 0x0D, 0x0E, 0x0F, 0x01, 0x13])
      (.getIdAndVersionResp Params.default.boardId 0x01) = true := by decide
theorem test_decode_getThresholdResp :
    sameInstr (decodeResponse [0xAA, 0x55, 0xAA, 0x55, 0x02, 0x03, 0x07, 0x06])
      (.getThresholdResp 0x07) = true := by decide
theorem test_decode_readCurrentValuesResp :
    sameInstr (decodeResponse [0xAA, 0x55, 0xAA, 0x55, 0x04, 0x0A, 0x00, 0x02, 0xFF, 0x01, 0x00, 0x00, 0xFF, 0x03, 0x0E])
      (.readCurrentValuesResp 0x0200 0x01FF 0x0000 0x03FF) = true := by decide
theorem test_decode_readCurrentAveragesResp :
    sameInstr (decodeResponse [0xAA, 0x55, 0xAA, 0x55, 0x05, 0x0A, 0x00, 0x01, 0x80, 0x01, 0x00, 0x00, 0xFF, 0x03, 0x73])
      (.readCurrentAveragesResp 256 384 0 1023) = true := by decide
theorem test_decode_getTriggerModeResp :
    sameInstr (decodeResponse [0xAA, 0x55, 0xAA, 0x55, 0x07, 0x03, 0x02, 0x06])
      (.getTriggerModeResp 0x02) = true := by decide
theorem test_decode_getAlphaResp :
    sameInstr (decodeResponse [0xAA, 0x55, 0xAA, 0x55, 0x0B, 0x03, 0x19, 0x11])
      (.getAlphaResp 25) = true := by decide

/-- R68: an extra byte is carried (section 3.3). -/
theorem test_decode_extra_byte :
    sameInstr (decode [0xAA, 0x55, 0xAA, 0x55, 0x03, 0x04, 0x07, 0x09, 0x09]) (.setThreshold [0x07, 0x09]) = true := by decide
/-- R70, R68: so is a longer response (`GetThreshold.resp` with an extra 09); a shorter one is refused. -/
theorem test_decode_response_lengths :
    sameInstr (decodeResponse [0xAA, 0x55, 0xAA, 0x55, 0x02, 0x04, 0x07, 0x09, 0x08]) (.getThresholdResp 0x07) = true ∧
      sameReject (decodeResponse [0xAA, 0x55, 0xAA, 0x55, 0x02, 0x02, 0x00]) (.shortResponse 0x02) = true := by decide
/-- R71 (section 3.3). -/
theorem test_decode_unknown_opcode :
    sameReject (decode [0xAA, 0x55, 0xAA, 0x55, 0x0D, 0x02, 0x0F]) (.unknownOpcode 0x0D) = true := by decide
/-- R72. -/
theorem test_decode_sync_byte_as_opcode :
    sameReject (decode [0xAA, 0x55, 0xAA, 0x55, 0xAA, 0x02, 0xA8]) .syncByteAsOpcode = true := by decide
/-- R73 (section 4.5). -/
theorem test_decode_length_one :
    sameReject (decode [0xAA, 0x55, 0xAA, 0x55, 0x03, 0x01, 0x02]) .lengthTooSmall = true := by decide
/-- R63 (section 4.3). -/
theorem test_decode_bad_checksum :
    sameReject (decode [0xAA, 0x55, 0xAA, 0x55, 0x03, 0x03, 0x07, 0x06]) .badChecksum = true := by decide
/-- R61 (section 4.17). -/
theorem test_decode_bad_sync :
    sameReject (decode [0xAB, 0x55, 0xAA, 0x55, 0x03, 0x03, 0x07, 0x07]) .badSync = true := by decide
/-- R96 (section 4.11). -/
theorem test_decode_incomplete :
    sameReject (decode [0xAA, 0x55, 0xAA, 0x55, 0x03, 0x03, 0x07]) .incomplete = true := by decide
/-- The table's word of `GetThreshold`, `F[0]` in bits 39 to 32. -/
theorem test_table_word : decodeTableWord 40 0xAA55AA5502 = some (.getThreshold []) := by decide
/-- A longer table word: length byte, operand and checksum are its own. -/
theorem test_table_word_long : decodeTableWord 64 0x070703AA55AA5503 = some (.setThreshold [0x07]) := by decide

/-! ## One step per instruction (section 8) -/

/-- 8.1. -/
theorem test_step_getIdAndVersion :
    after (step (got [0xAA, 0x55, 0xAA, 0x55, 0x01, 0x02, 0x03]))
      (fun t => decide (t.micro = .build (.getIdAndVersionResp Params.default.boardId 0x01))) = true := by decide
/-- 8.2. -/
theorem test_step_getThreshold :
    after (step (got [0xAA, 0x55, 0xAA, 0x55, 0x02, 0x02, 0x00]))
      (fun t => decide (t.micro = .build (.getThresholdResp 0x0A)) && decide (t.scanLen = 7)) = true := by decide
/-- 8.3. -/
theorem test_step_setThreshold :
    after (step (got [0xAA, 0x55, 0xAA, 0x55, 0x03, 0x03, 0xFF, 0xFF]))
      (fun t => decide (t.settings.thresholdFactor = 255) && decide (t.micro = .remove)) = true := by decide
/-- 8.4, the last of the four critical sections. -/
theorem test_step_readCurrentValues :
    after (step { got [0xAA, 0x55, 0xAA, 0x55, 0x04, 0x02, 0x06] with
        micro := .snapshot .values [0x0200, 0x01FF, 0x0000],
        ch := #v[⟨1, 0, 0, 0⟩, ⟨2, 0, 0, 0⟩, ⟨3, 0, 0, 0⟩, ⟨0x03FF, 0, 0, 0⟩] })
      (fun t => decide (t.micro = .build (.readCurrentValuesResp 0x0200 0x01FF 0x0000 0x03FF))) = true := by decide
/-- 8.5, the first of the four: 384.5 is truncated when it is channel 0's average. -/
theorem test_step_readCurrentAverages :
    after (step (channels ⟨0, 0x43C04000, 0, 0⟩ (got [0xAA, 0x55, 0xAA, 0x55, 0x05, 0x02, 0x07])))
      (fun t => decide (t.micro = .snapshot .averages [384]) && decide (t.rx.tail = 0) && decide (t.phase = .scan)) = true := by
  decide
/-- 8.6, an illegal value. -/
theorem test_step_setTriggerMode :
    after (step (got [0xAA, 0x55, 0xAA, 0x55, 0x06, 0x03, 0x04, 0x01]))
      (fun t => decide (t.settings.trigMode = 1) && decide (t.micro = .remove)) = true := by decide
theorem test_step_getTriggerMode :
    after (step (got [0xAA, 0x55, 0xAA, 0x55, 0x07, 0x02, 0x05]))
      (fun t => decide (t.micro = .build (.getTriggerModeResp 0x01))) = true := by decide
/-- 8.8. -/
theorem test_step_reset :
    after (step (channels ⟨5, 6, 7, 0x44000000⟩ { got [0xAA, 0x55, 0xAA, 0x55, 0x08, 0x02, 0x0A] with
        settings := ⟨2, 99, 0x3F000000, 7, 1⟩ }))
      (fun t => decide (t.settings = ⟨1, 7, 0x3F000000, 1000, 100⟩) && decide (t.chan 3 = ⟨5, 6, 7, 0⟩) &&
        decide (t.calRemaining = 1000)) = true := by decide
/-- 8.9. -/
theorem test_step_recalibrate :
    after (step (channels ⟨5, 6, 7, 0x44000000⟩ { got [0xAA, 0x55, 0xAA, 0x55, 0x09, 0x02, 0x0B] with
        calCycle := 2, triggered := true }))
      (fun t => decide (t.chan 0 = ⟨5, 6, 7, 0⟩) && decide (t.calRemaining = 100) && decide (t.calCycle = 0) &&
        decide (t.triggered = true)) = true := by decide
/-- 8.10. -/
theorem test_step_storeSettings :
    after (step { got [0xAA, 0x55, 0xAA, 0x55, 0x0A, 0x02, 0x08] with settings := ⟨1, 7, 0x3F000000, 1000, 100⟩ })
      (fun t => decide (nvRead t = [0x01, 0x07, 0x00, 0x00, 0x00, 0x00, 0x00, 0x00, 0x3F, 0xE8, 0x03, 0x00, 0x00, 0x64, 0x00,
          0xB6, 0x49]) && decide (t.mainBusy = true) && decide (t.rx.tail = 0)) = true := by decide
/-- 8.11. -/
theorem test_step_getAlpha :
    after (step (got [0xAA, 0x55, 0xAA, 0x55, 0x0B, 0x02, 0x09]))
      (fun t => decide (t.micro = .build (.getAlphaResp 25))) = true := by decide
/-- 8.12, clamped. -/
theorem test_step_setAlpha :
    after (step (got [0xAA, 0x55, 0xAA, 0x55, 0x0C, 0x03, 0xFF, 0xF0]))
      (fun t => decide (t.settings.filterAlpha = 0x3F800000)) = true := by decide

/-- A table word placed for the fetch runs as the very next step, from reset (log 13). -/
theorem test_fetch_word :
    after (step ({ State.reset with settings := someSettings }.withFetchWord 40 0xAA55AA5502))
      (fun t => decide (t.micro = .build (.getThresholdResp 0x0A))) = true := by decide
/-- 8.2: the frame builder's step. -/
theorem test_build_step :
    after (step { got [0xAA, 0x55, 0xAA, 0x55, 0x02, 0x02, 0x00] with micro := .build (.getThresholdResp 0x0A) })
      (fun t => decide (t.txHeld = [0xAA, 0x55, 0xAA, 0x55, 0x02, 0x03, 0x0A, 0x0B]) && decide (t.micro = .remove)) = true := by
  decide
/-- R52, R91, R240: with a ring full of noise and a request, a byte that arrives between scanner and handler is kept, and a
byte request served there reads the filler. -/
theorem test_preempted_between_scanner_and_handler :
    after (thenNext (mainSteps 1 (arrived (List.replicate 24 0x00 ++ [0xAA, 0x55, 0xAA, 0x55, 0x02, 0x02, 0x00])))
        fun s => thenNext (runAgent .bus { s with pendBus := some (.rx 0x77) })
          fun s => runAgent .bus { s with pendBus := some .txreq })
      (fun t => decide (t.busRead = [0x00]) && decide (t.rxHeld = [0xAA, 0x55, 0xAA, 0x55, 0x02, 0x02, 0x00, 0x77]) &&
        decide (t.micro = .dispatch)) = true := by decide

/-! ## One response row, and the transmit overflow of 8.17 -/

theorem test_exec_getThresholdResp :
    after (exec (.getThresholdResp 0x07) base)
      (fun t => decide (t.txHeld = [0xAA, 0x55, 0xAA, 0x55, 0x02, 0x03, 0x07, 0x06])) = true := by decide
/-- 8.17: 24 bytes unread, 7 free, an 8-byte response. -/
theorem test_exec_getThresholdResp_overflow :
    after (exec (.getThresholdResp 0x07) { base with tx := ringOf 32 (List.replicate 24 0x01) })
      (fun t => decide (t.txOverflow = true) && decide (t.tx.head = 24)) = true := by decide

/-! ## Scanner, rings, floats, settings, trigger -/

/-- 4.2. -/
theorem test_scan_overlapping_sync :
    noiseLen [0xAA, 0x55, 0xAA, 0x55, 0xAA, 0x55, 0x03, 0x03, 0x09, 0x09] = 2 := by decide
/-- 4.13. -/
theorem test_scan_noise_kept : noiseLen [1, 2, 3, 4, 5, 6, 7] = 3 := by decide
/-- 4.7: `L = 27` does not fit a ring of 32 slots. -/
theorem test_scan_length_27 :
    after (step (arrived [0xAA, 0x55, 0xAA, 0x55, 0x03, 0x1B, 0x00])) (fun t => decide (t.rxHeld = [0x03, 0x1B, 0x00])) = true := by
  decide
/-- Log 13: of 40 bytes placed, a ring of 32 slots holds the first 31. -/
theorem test_ringOf_overlong :
    (ringOf 32 (List.replicate 31 0x01 ++ List.replicate 9 0x02)).held 32 = List.replicate 31 0x01 := by decide
/-- 4.8: `L = 26` does. -/
theorem test_scan_length_26 :
    after (step (arrived [0xAA, 0x55, 0xAA, 0x55, 0x03, 0x1A, 0x00])) (fun t => decide (t.rx.tail = 0)) = true := by decide
/-- 4.1 and R100: the removal of a dispatched frame, with a second frame behind it. -/
theorem test_remove_frame :
    after (step { got [0xAA, 0x55, 0xAA, 0x55, 0x02, 0x02, 0x00, 0xAA, 0x55] with micro := .remove, scanLen := 7 })
      (fun t => decide (t.rxHeld = [0xAA, 0x55]) && decide (t.phase = .trigger) && decide (t.scanLen = 0)) = true := by
  decide
/-- 2.1, the seventh step: the head has wrapped. -/
theorem test_ring_count_wrapped : Ring.count 4 ⟨[], 0, 1⟩ = 3 := by decide
/-- 5.4. -/
theorem test_filter_step : filterStep 0x43FA0000 0x3DCCCCCD 600 = 0x43FF0000 := by decide
/-- 5.7: not exactly 903. -/
theorem test_filter_rounds : filterStep 0x4461C000 0x3C23D70A 903 = 0x4461C001 := by decide
/-- 7.3. -/
theorem test_alpha_53 : percentToAlpha 53 = 0x3F07AE14 ∧ alphaToPercent 0x3F07AE14 = 53 := by decide
/-- 5.12. -/
theorem test_f2u16 :
    f2u16 0x477FFEE6 = 65534 ∧ f2u16 0x7F800000 = 65535 ∧ f2u16 0xBF800000 = 0 ∧ f2u16 0x7FC00000 = 0 := by decide
/-- R117: strict (section 5, deviation and threshold). -/
theorem test_threshold_strict :
    exceedsThreshold 0x43000000 128 = false ∧ exceedsThreshold 0x43000000 127 = true := by decide
/-- 6.3: the clock has wrapped. -/
theorem test_debounce_wrap :
    debounceExpired 0x00000053 ⟨100, 0xFFFFFFF0⟩ = false ∧ debounceExpired 0x00000054 ⟨100, 0xFFFFFFF0⟩ = true := by decide
/-- 7.2: both erased blocks are invalid, the block of all-zero settings is valid. -/
theorem test_erased_blocks :
    blockValid (List.replicate 17 0x00) = false ∧ blockValid (List.replicate 17 0xFF) = false ∧
      blockValid (List.replicate 16 0x00 ++ [0xFF]) = true := by decide
/-- 7.4. -/
theorem test_clock_fraction :
    (clockTick { base with params := { Params.default with tickFractInc := 3 }, clock := ⟨41, 123, 41⟩ }).clock =
      ⟨43, 1, 42⟩ := by decide
/-- 5.9, event 11: the last sample of the calibration. -/
theorem test_calibration_finalises :
    (convComplete 0 { base with
      settings := ⟨1, 7, 0x3F000000, 3, 100⟩, calRemaining := 1, calCycle := 3, chanIdx := 3,
      ch := #v[⟨514, 0, 0, 0x44C00000⟩, ⟨99, 0, 0, 0x43960000⟩, ⟨1023, 0, 0, 0x453FD000⟩, ⟨0, 0, 0, 0⟩] }).ch.toList.map
        Channel.centerline = [0x44000000, 0x42C80000, 0x447FC000, 0x00000000] := by decide
/-- R4: a build outside the constraints is refused. -/
theorem test_bad_parameters :
    (match step { base with params := { Params.default with rxCap := 8 } } with
      | .refused r => decide (r = .badParameters)
      | _ => false) = true := by decide
/-- R247: the second event of a pending source is refused. -/
theorem test_event_overrun :
    (match step { base with inputs := [.tick], pendTick := true } with
      | .refused r => decide (r = .eventOverrun)
      | _ => false) = true := by decide
/-- R11: a raw count of 1024 is refused when `ADC_BITS` is 10. -/
theorem test_raw_out_of_range :
    (match step { base with inputs := [.conv 1024] } with
      | .refused r => decide (r = .rawOutOfRange)
      | _ => false) = true := by decide

/-! ## Witnesses: the hypotheses of each statement are met -/

/-- The frame of `SetThreshold(7)`. -/
def threshold7 : List Byte := [0xAA, 0x55, 0xAA, 0x55, 0x03, 0x03, 0x07, 0x07]

theorem wit_base : Invariant base ∧ MainReady base ∧ base.phase = .scan :=
  ⟨invB_sound (by decide), readyB_sound (by decide), by decide⟩

theorem wit_DecodeEncodeAgreesOnRequests :
    (Instr.setAlpha [0xFF]).wellFormed = true ∧ (Instr.setAlpha [0xFF]).isRequest = true ∧
    (Instr.reset []).wellFormed = true ∧ (Instr.reset []).isRequest = true := by decide

theorem wit_DecodeEncodeAgreesOnRequests_longest :
    (Instr.reset (List.replicate 253 0xAA)).wellFormed = true ∧
    (Instr.reset (List.replicate 253 0xAA)).isRequest = true := by decide +kernel

theorem wit_DecodeEncodeAgreesOnResponses :
    (Instr.getAlphaResp 100).wellFormed = true ∧ (Instr.getAlphaResp 100).isRequest = false ∧
    (Instr.getIdAndVersionResp Params.default.boardId 0x01).wellFormed = true ∧
    (Instr.getIdAndVersionResp Params.default.boardId 0x01).isRequest = false := by decide

theorem wit_ParseFrameIsDecode :
    7 ≤ [0xAA, 0x55, 0xAA, 0x55, 0x02, 0x02, (0x00 : Byte)].length ∧ (0x0C : Byte) ≠ 0xAA ∧
    (List.replicate 253 (0x00 : Byte)).length ≤ 253 := by decide +kernel

theorem wit_EncodedFrameHasZeroXor : (List.replicate 253 (0x00 : Byte)).length ≤ 253 ∧ ([] : List Byte).length ≤ 253 := by
  decide +kernel

theorem wit_SingleByteDamageIsRejected :
    (0x03 : Byte) ≠ 0xAA ∧ [(0x07 : Byte)].length ≤ 253 ∧ 7 < [(0x07 : Byte)].length + 7 ∧ (7 : Nat) ≠ 5 ∧
    (encodeFrame 0x03 [0x07])[7]? ≠ some (0x06 : Byte) ∧ (encodeFrame 0x03 [0x07])[0]? ≠ some (0xAB : Byte) := by decide

theorem wit_NoiseBeforeAFrameStartIsDropped :
    frameStart threshold7 = true ∧
    ∀ k, k < [(0x00 : Byte), 0xAA, 0x55].length → frameStart (([0x00, 0xAA, 0x55] ++ threshold7).drop k) = false := by decide

theorem wit_FourBytesAreKeptOfNoise :
    ∀ k, k < [(0x09 : Byte), 0x09, 0x09, 0xAA, 0x55, 0xAA].length →
      frameStart ([0x09, 0x09, 0x09, 0xAA, 0x55, 0xAA].drop k) = false := by decide

/-- Section 4.3 (bad checksum); 4.5 and 4.7 (illegal lengths) are the other two framing errors. -/
theorem wit_FramingErrorDropsTheSync :
    Invariant (arrived [0xAA, 0x55, 0xAA, 0x55, 0x03, 0x03, 0x07, 0x06]) ∧
    MainReady (arrived [0xAA, 0x55, 0xAA, 0x55, 0x03, 0x03, 0x07, 0x06]) ∧
    (arrived [0xAA, 0x55, 0xAA, 0x55, 0x03, 0x03, 0x07, 0x06]).phase = .scan ∧
    sameReject (parseFrame 31 ((arrived [0xAA, 0x55, 0xAA, 0x55, 0x03, 0x03, 0x07, 0x06]).rxHeld)) .badChecksum = true ∧
    isFramingError .badChecksum = true ∧
    sameReject (parseFrame 31 [0xAA, 0x55, 0xAA, 0x55, 0x03, 0x01, 0x02]) .lengthTooSmall = true ∧
    isFramingError .lengthTooSmall = true ∧
    sameReject (parseFrame 31 [0xAA, 0x55, 0xAA, 0x55, 0x03, 0x1B, 0x00]) .lengthTooLarge = true ∧
    isFramingError .lengthTooLarge = true :=
  ⟨invB_sound (by decide), readyB_sound (by decide), by decide, by decide, by decide, by decide, by decide, by decide,
    by decide⟩

/-- Section 4.13 (noise only), noise in front of a frame that is still arriving, and an empty ring. -/
theorem wit_ScannerWaitsForTheRest_noise :
    Invariant (arrived [0x01, 0x02, 0x03, 0x04, 0x05, 0x06, 0x07]) ∧
    MainReady (arrived [0x01, 0x02, 0x03, 0x04, 0x05, 0x06, 0x07]) ∧
    sameReject (parseFrame 31 ([0x01, 0x02, 0x03, 0x04, 0x05, 0x06, 0x07].drop 3)) .incomplete = true ∧
    isFramingError .incomplete = false ∧
    Invariant (arrived [0x01, 0xAA, 0x55, 0xAA, 0x55, 0x02]) ∧ MainReady (arrived [0x01, 0xAA, 0x55, 0xAA, 0x55, 0x02]) ∧
    noiseLen [0x01, 0xAA, 0x55, 0xAA, 0x55, 0x02] = 1 ∧
    sameReject (parseFrame 31 [0xAA, 0x55, 0xAA, 0x55, 0x02]) .incomplete = true ∧
    Invariant base ∧ MainReady base ∧ base.rxHeld = [] ∧ sameReject (parseFrame 31 []) .incomplete = true :=
  ⟨invB_sound (by decide), readyB_sound (by decide), by decide, by decide, invB_sound (by decide), readyB_sound (by decide),
    by decide, by decide, invB_sound (by decide), readyB_sound (by decide), by decide, by decide⟩

/-- Section 4.10: five bytes; section 4.8: the longest frame the ring can hold, one byte still missing. -/
theorem wit_ScannerWaitsForTheRest :
    Invariant (got [0xAA, 0x55, 0xAA, 0x55, 0x02]) ∧ MainReady (got [0xAA, 0x55, 0xAA, 0x55, 0x02]) ∧
    frameStart (got [0xAA, 0x55, 0xAA, 0x55, 0x02]).rxHeld = true ∧
    (got [0xAA, 0x55, 0xAA, 0x55, 0x02]).rxHeld.length = 5 ∧
    Invariant (got (0xAA :: 0x55 :: 0xAA :: 0x55 :: 0x03 :: 0x1A :: List.replicate 24 0x01)) ∧
    (got (0xAA :: 0x55 :: 0xAA :: 0x55 :: 0x03 :: 0x1A :: List.replicate 24 0x01)).rxHeld.length = 30 ∧
    (got (0xAA :: 0x55 :: 0xAA :: 0x55 :: 0x03 :: 0x1A :: List.replicate 24 0x01)).rxHeld[5]? = some 0x1A :=
  ⟨invB_sound (by decide), readyB_sound (by decide), by decide, by decide, invB_sound (by decide), by decide, by decide⟩

/-- Section 3.3: opcode 0x0D, and opcode 0x00. -/
theorem wit_UndefinedOpcodeHasNoEffect :
    Invariant (arrived [0xAA, 0x55, 0xAA, 0x55, 0x0D, 0x02, 0x0F]) ∧ MainReady (arrived [0xAA, 0x55, 0xAA, 0x55, 0x0D, 0x02, 0x0F]) ∧
    (match parseFrame 31 (arrived [0xAA, 0x55, 0xAA, 0x55, 0x0D, 0x02, 0x0F]).rxHeld with
      | .ok r => decide (r = (0x0D, []))
      | .error _ => false) = true ∧
    (match parseFrame 31 (arrived [0xAA, 0x55, 0xAA, 0x55, 0x00, 0x02, 0x02]).rxHeld with
      | .ok r => decide (r = (0x00, []))
      | .error _ => false) = true :=
  ⟨invB_sound (by decide), readyB_sound (by decide), by decide, by decide⟩

/-- Noise in front of the frame; then the frame found, scheduled by an input and with no input. -/
theorem wit_StepRunsTheDecodedInstruction :
    Invariant (arrived (0x00 :: threshold7)) ∧ MainReady (arrived (0x00 :: threshold7)) ∧
    (arrived (0x00 :: threshold7)).phase = .scan ∧ noiseLen (arrived (0x00 :: threshold7)).rxHeld = 1 ∧
    (match parseFrame 31 ((arrived (0x00 :: threshold7)).rxHeld.drop 1) with
      | .ok r => decide (r = (0x03, [0x07]))
      | .error _ => false) = true ∧
    (got threshold7).params.ok = true ∧ MainRuns (got threshold7) ∧ (got threshold7).micro = .dispatch ∧
    (got threshold7).inputs = [] ∧ (got threshold7).pendTick = false ∧ (got threshold7).pendConv = none ∧
    (got threshold7).pendBus = none ∧ { got threshold7 with inputs := [.run .main, .tick] }.inputs = .run .main :: [.tick] ∧
    sameInstr (decode (got threshold7).rxHeld) (.setThreshold [0x07]) = true ∧
    (got threshold7).rxHeld[5]? = some 0x03 ∧ (got threshold7).scanLen = (0x03 : Byte).toNat + 5 :=
  ⟨invB_sound (by decide), readyB_sound (by decide), by decide, by decide, by decide, by decide, runsB_sound (by decide),
    by decide, by decide, by decide, by decide, by decide, by decide, by decide, by decide, by decide⟩

/-- Each kind of input; with none, nobody enabled, one agent and two; and a build outside R4. -/
theorem wit_StepRunsTheDecodedInstruction_environment :
    { base with inputs := [.run .conv, .tick] }.params.ok = true ∧
    { base with inputs := [.run .conv, .tick] }.inputs = .run .conv :: [.tick] ∧
    { base with inputs := [.tick] }.inputs = .tick :: [] ∧
    { base with inputs := [.conv 1023] }.inputs = .conv 1023 :: [] ∧
    { base with inputs := [.bus .txreq] }.inputs = .bus .txreq :: [] ∧
    { base with inputs := [.probe true] }.inputs = .probe true :: [] ∧
    base.inputs = [] ∧ enabledAgents { base with rst := true } = [] ∧ enabledAgents base = [.main] ∧
    enabledAgents { base with pendTick := true } = [.tick, .main] ∧
    { base with params := { base.params with adcBits := 17 } }.params.ok = false := by decide

/-- A ring of four slots: empty, full across the wrap, and with room. -/
theorem wit_rings :
    RingOk 4 ⟨[], 2, 2⟩ ∧ Ring.count 4 ⟨[], 2, 2⟩ = 0 ∧ Ring.isEmpty ⟨[], 2, 2⟩ = true ∧
    RingOk 4 ⟨[(1, 0x22), (2, 0x33), (3, 0x44)], 0, 1⟩ ∧
    Ring.count 4 ⟨[(1, 0x22), (2, 0x33), (3, 0x44)], 0, 1⟩ = 4 - 1 ∧
    RingOk 4 ⟨[(3, 0x44)], 0, 3⟩ ∧ Ring.count 4 ⟨[(3, 0x44)], 0, 3⟩ < 4 - 1 ∧
    Ring.held 4 ⟨[(3, 0x44)], 0, 3⟩ = [0x44] ∧
    1 ≤ Ring.count 4 ⟨[(3, 0x44)], 0, 3⟩ ∧ [(0x55 : Byte), 0x66].length ≤ Ring.free 4 ⟨[(3, 0x44)], 0, 3⟩ ∧ (4 : Nat) ≤ 256 :=
  ⟨ringB_sound (by decide), by decide, by decide, ringB_sound (by decide), by decide, ringB_sound (by decide), by decide,
    by decide, by decide, by decide, by decide⟩

/-- `base` with an event of the bus pending. -/
def busPending (e : BusEvent) (s : State) : State := { s with pendBus := some e }

/-- The receive ring of 32 slots is full, and is empty. -/
theorem wit_BusReceiveAppendsOrDrops :
    Invariant (busPending (.rx 0x12) (got (List.replicate 31 0x01))) ∧
    (busPending (.rx 0x12) (got (List.replicate 31 0x01))).rxHeld.length = 32 - 1 ∧
    Invariant (busPending (.rx 0x12) base) ∧ (busPending (.rx 0x12) base).rxHeld.length < 32 - 1 ∧
    (busPending (.rx 0x12) base).rst = false ∧ (busPending (.rx 0x12) base).intMask = false ∧
    (busPending (.rx 0x12) base).busErr = false :=
  ⟨invB_sound (by decide), by decide, invB_sound (by decide), by decide, by decide, by decide, by decide⟩

/-- The transmit ring is empty, and holds two bytes. -/
theorem wit_BusTransmitSendsOldestOrFiller :
    Invariant (busPending .txreq base) ∧ (busPending .txreq base).txHeld = [] ∧
    Invariant (busPending .txreq { base with tx := ringOf 32 [0xAA, 0x55] }) ∧
    (busPending .txreq { base with tx := ringOf 32 [0xAA, 0x55] }).txHeld = [0xAA, 0x55] ∧
    (busPending .txreq base).rst = false ∧ (busPending .txreq base).intMask = false ∧
    (busPending .txreq base).busErr = false :=
  ⟨invB_sound (by decide), by decide, invB_sound (by decide), by decide, by decide, by decide, by decide⟩

theorem wit_BusErrorLeavesTheBlockAlone :
    (busPending .buserr base).rst = false ∧ (busPending .buserr base).intMask = false ∧
    (busPending .buserr base).busErr = false ∧ (busPending .buserr base).pendBus = some .buserr ∧
    { busPending .txreq base with busErr := true }.busErr = true ∧
    { busPending .txreq base with busErr := true }.pendBus.isSome = true := by decide

/-- Arrivals with the interrupts masked and unmasked; the largest count and the first out of range; second events. -/
theorem wit_MaskedHandlersWait :
    State.reset.intMask = true ∧ State.reset.rst = false ∧ State.reset.pendTick = false ∧
    base.intMask = false ∧ base.rst = false ∧ base.pendTick = false ∧ base.pendConv = none ∧ base.pendBus = none ∧
    (1023 : Half).toNat < 2 ^ base.params.adcBits ∧ 2 ^ base.params.adcBits ≤ (1024 : Half).toNat ∧
    { base with pendTick := true }.pendTick = true ∧ { base with pendConv := some 5 }.pendConv ≠ none ∧
    (busPending .txreq base).pendBus = some .txreq ∧ (busPending .txreq base).busErr = false ∧
    { busPending .txreq base with busErr := true }.busErr = true ∧
    enabled .tick base = false ∧ enabled .main base = true := by decide

theorem wit_HandlersCommute :
    Agent.tick ≠ .main ∧ Agent.tick ≠ .settle ∧ Agent.conv ≠ .main ∧ Agent.conv ≠ .settle ∧ Agent.tick ≠ Agent.conv := by
  decide

/-- `base` with a conversion pending for channel 3, the last of the round. -/
def convPending (raw : Half) : State := { base with pendConv := some raw, chanIdx := 3 }

theorem wit_ConversionStoresAndAdvances :
    (convPending 1023).rst = false ∧ (convPending 1023).intMask = false ∧ (convPending 1023).pendConv = some 1023 ∧
    (0 : BitVec 2) ≠ (convPending 1023).chanIdx := by decide

theorem wit_ArmedSampleFiltersAndTests : (convPending 1023).calRemaining = 0 := by decide

theorem wit_FilterEndpointsAreExact : f32FiniteNonneg 0x44424000 ∧ f32FiniteNonneg 0x00000000 ∧ f32FiniteNonneg 0x7F7FFFFF := by
  simp only [f32FiniteNonneg]
  decide

/-- In mid-cycle, at the end of a cycle, and at the last sample of all. -/
theorem wit_CalibrationFreezesTheFilter :
    { base with calRemaining := 1 }.calRemaining ≠ 0 ∧ { base with calRemaining := 1 }.calCycle ≠ 3 ∧
    { base with calRemaining := 2, calCycle := 3 }.calRemaining ≠ 0 ∧
    { base with calRemaining := 1, calCycle := 3 }.calRemaining ≠ 0 := by decide

/-- The largest exact sum of 16-bit samples, and a count that 24 bits cannot hold with the sample 0. -/
theorem wit_CalibrationConverges :
    { base with settings := ⟨1, 7, 0x3F000000, 256, 100⟩ }.settings.calibrationSampleCount.toNat = 256 ∧ 0 < 256 ∧
    256 * (65535 : Half).toNat < 2 ^ 24 ∧
    { base with settings := ⟨1, 7, 0x3F000000, 2, 100⟩ }.settings.calibrationSampleCount.toNat = 2 ∧
    [(5 : Half), 6, 7].length < 4 * 2 ∧ [(1 : Half), 2, 3, 4, 5, 6, 7, 8].length = 4 * 2 ∧
    4294967295 * (0 : Half).toNat < 2 ^ 24 := by decide

/-- A conversion about to be served, Armed; the coefficient `-0.0` and a calibration in progress for the last clause. -/
theorem wit_FloatRegistersStayTame :
    Invariant { base with pendConv := some 1023, inputs := [.run .conv] } ∧
    FloatSafe { base with pendConv := some 1023, inputs := [.run .conv] } ∧
    after (step { base with pendConv := some 1023, inputs := [.run .conv] }) (fun t => decide (t.chanIdx = 1)) = true ∧
    alphaInRange 0x80000000 ∧ floatsTame { base with calRemaining := 5 } ∧
    { base with calRemaining := 5 }.settings.calibrationSampleCount ≠ 0 := by
  refine ⟨invB_sound (by decide), ⟨?_, fun _ _ => ?_, ?_, by decide⟩, by decide, .inr (by decide), ?_, by decide⟩
  · simp only [floatsTame, f32FiniteNonneg]
    decide
  · exact .inl (by decide)
  · exact fun h => absurd h (by decide)
  · simp only [floatsTame, f32FiniteNonneg]
    decide

/-- `base` about to evaluate the trigger, the flag set. -/
def flagSet : State := { base with phase := .trigger, triggered := true }

/-- A pulse in progress, about to be checked. -/
def pulse : State := { base with phase := .debounce, trigOut := true, debounce := ⟨100, 0xFFFFFFF0⟩ }

theorem wit_TriggerPhaseFiresByMode :
    MainReady flagSet ∧ flagSet.phase = .trigger ∧ flagSet.settings.trigMode = 1 ∧
    MainReady { flagSet with triggered := false } ∧ { flagSet with triggered := false }.phase = .trigger :=
  ⟨readyB_sound (by decide), by decide, by decide, readyB_sound (by decide), by decide⟩

/-- Section 6.3: not expired at `0x53`, expired at `0x54`. -/
theorem wit_DebouncePhaseExpires :
    MainReady { pulse with clock := ⟨0x53, 0, 0⟩ } ∧ { pulse with clock := ⟨0x53, 0, 0⟩ }.phase = .debounce ∧
    ¬ 100 ≤ (0x53 + 2 ^ 32 - 0xFFFFFFF0) % 2 ^ 32 ∧
    MainReady { pulse with clock := ⟨0x54, 0, 0⟩ } ∧ { pulse with clock := ⟨0x54, 0, 0⟩ }.phase = .debounce ∧
    100 ≤ (0x54 + 2 ^ 32 - 0xFFFFFFF0) % 2 ^ 32 :=
  ⟨readyB_sound (by decide), by decide, by decide, readyB_sound (by decide), by decide, by decide⟩

theorem wit_ZeroLengthPulseIsOnePhase :
    MainReady { flagSet with settings := ⟨1, 10, 0, 100, 0⟩ } ∧
    { flagSet with settings := ⟨1, 10, 0, 100, 0⟩ }.settings.debounceLengthMillis = 0 ∧
    { flagSet with settings := ⟨1, 10, 0, 100, 0⟩ }.settings.trigMode = 1 ∧
    { flagSet with settings := ⟨1, 10, 0, 100, 0⟩ }.debounce.counter = 0 ∧
    { flagSet with settings := ⟨1, 10, 0, 100, 0⟩ }.triggered = true ∧ flagSet.phase = .trigger :=
  ⟨readyB_sound (by decide), by decide, by decide, by decide, by decide, by decide⟩

theorem wit_OnlyFiringClearsTheFlag :
    flagSet.triggered = true ∧ after (runAgent .main flagSet) (fun t => decide (t.triggered = false)) = true := by decide

theorem wit_OutputFallsOnlyOnExpiry_counter :
    { pulse with clock := ⟨0x54, 0, 0⟩ }.debounce.counter ≠ 0 ∧
    after (runAgent .main { pulse with clock := ⟨0x54, 0, 0⟩ }) (fun t => decide (t.debounce.counter = 0)) = true ∧
    { pulse with phase := .trigger, probeActive := true, settings := ⟨2, 10, 0, 100, 0⟩ }.debounce.counter ≠ 0 ∧
    after (runAgent .main { pulse with phase := .trigger, probeActive := true, settings := ⟨2, 10, 0, 100, 0⟩ })
      (fun t => decide (t.debounce.counter = 0) && decide (t.trigOut = true)) = true := by decide

theorem wit_OutputFallsOnlyOnExpiry :
    { pulse with clock := ⟨0x54, 0, 0⟩ }.trigOut = true ∧
    after (runAgent .main { pulse with clock := ⟨0x54, 0, 0⟩ }) (fun t => decide (t.trigOut = false)) = true := by decide

/-- Section 7.4, without and with a carry. -/
theorem wit_ClockTickCarries :
    (3 : Nat) < 125 ∧ (125 : Nat) ≤ 256 ∧
    { base with pendTick := true }.rst = false ∧ { base with pendTick := true }.intMask = false ∧
    { base with pendTick := true }.pendTick = true ∧
    { base with clock := ⟨0xFFFFFFFF, 123, 0⟩ }.clock.microFraction.toNat < base.params.fractMax ∧
    base.params.tickFractInc < base.params.fractMax ∧ base.params.fractMax ≤ 256 := by decide

theorem wit_OnlyTicksMoveTheClock : Agent.main ≠ .tick ∧ after (runAgent .main base) (fun _ => true) = true := by decide

/-- Section 7.1: a byte of each part of the block changed. -/
theorem wit_PackedSettingsReadBack :
    (packSettings ⟨1, 7, 0x3F000000, 1000, 100⟩)[1]? ≠ some (0x08 : Byte) ∧
    (packSettings ⟨1, 7, 0x3F000000, 1000, 100⟩)[15]? ≠ some (0xB7 : Byte) ∧
    (packSettings ⟨1, 7, 0x3F000000, 1000, 100⟩)[16]? ≠ some (0x48 : Byte) ∧
    (List.replicate 17 (0x00 : Byte)).length = 17 := by decide

/-- The machine at boot step B2, with the blank block and with a valid one. -/
def atB2 (block : List Byte) : State := nvWrite block { State.reset with boot := .b2 }

theorem wit_BootLoadsSettings :
    (atB2 []).rst = false ∧ (atB2 []).mainBusy = false ∧ (atB2 []).boot = .b2 ∧ blockValid (nvRead (atB2 [])) = false ∧
    (atB2 (packSettings someSettings)).boot = .b2 ∧ blockValid (nvRead (atB2 (packSettings someSettings))) = true := by decide

theorem wit_NvIsWrittenOnTwoOccasions :
    Invariant (atB2 []) ∧ Invariant (got [0xAA, 0x55, 0xAA, 0x55, 0x0A, 0x02, 0x08]) ∧
    after (runAgent .main (atB2 [])) (fun t => decide (t.nv ≠ (atB2 []).nv)) = true ∧
    after (runAgent .main (got [0xAA, 0x55, 0xAA, 0x55, 0x0A, 0x02, 0x08]))
      (fun t => decide (t.nv ≠ (got [0xAA, 0x55, 0xAA, 0x55, 0x0A, 0x02, 0x08]).nv)) = true :=
  ⟨invB_sound (by decide), invB_sound (by decide), by decide, by decide⟩

theorem wit_BootReachesTheMainLoop :
    Params.default.ok = true ∧
    blockValid (nvRead (atReset Params.default [] Settings.zero [] [])) = false ∧
    blockValid (nvRead (atReset Params.default (atB2 (packSettings someSettings)).nv Settings.zero [] [])) = true := by decide

theorem wit_ResetHoldsTheBlock :
    { flagSet with inputs := [.assertReset, .tick] }.params.ok = true ∧
    { flagSet with inputs := [.assertReset, .tick] }.rst = false ∧
    { flagSet with inputs := [.assertReset, .tick] }.inputs = .assertReset :: [.tick] ∧
    { flagSet with rst := true }.rst = true ∧
    { flagSet with rst := true, inputs := [.releaseReset] }.inputs = .releaseReset :: [] ∧
    { flagSet with rst := true, inputs := [.assertReset] }.inputs = .assertReset :: [] ∧
    { flagSet with inputs := [.assertReset, .releaseReset] }.inputs = .assertReset :: .releaseReset :: [] := by decide

/-- A state with a frame in the receive ring and a pulse in progress, and a step from it that completes. -/
theorem wit_StepKeepsTheInvariant :
    Invariant { got threshold7 with trigOut := true, debounce := ⟨50, 3⟩, pendTick := true, inputs := [.run .main] } ∧
    after (step { got threshold7 with trigOut := true, debounce := ⟨50, 3⟩, pendTick := true, inputs := [.run .main] })
      (fun t => decide (t.settings.thresholdFactor = 7)) = true :=
  ⟨invB_sound (by decide), by decide⟩

/-- A snapshot with one value still to take, a response to build, a frame to remove, and the settle delay. -/
theorem wit_invariant_between_micro_steps :
    Invariant { got [0xAA, 0x55, 0xAA, 0x55, 0x04, 0x02, 0x06] with micro := .snapshot .values [1, 2, 3] } ∧
    Invariant { got [0xAA, 0x55, 0xAA, 0x55, 0x02, 0x02, 0x00] with micro := .build (.getThresholdResp 0x07) } ∧
    Invariant { got threshold7 with micro := .remove } ∧
    Invariant { got [0xAA, 0x55, 0xAA, 0x55, 0x0A, 0x02, 0x08] with micro := .remove, mainBusy := true } :=
  ⟨invB_sound (by decide), invB_sound (by decide), invB_sound (by decide), invB_sound (by decide)⟩

theorem wit_OnlyResetClearsTxOverflow :
    { base with txOverflow := true, inputs := [.assertReset] }.txOverflow = true ∧
    (match step { base with txOverflow := true, inputs := [.assertReset] } with
      | .next t => t.txOverflow = false
      | .fault _ => False
      | .refused _ => False) :=
  ⟨by decide, rfl⟩

/-- Every request answers a next state. -/
theorem wit_CommandsTouchOnlyTheirRow :
    ∀ i ∈ [Instr.getIdAndVersion [], .getThreshold [], .getTriggerMode [], .getAlpha [], .readCurrentValues [],
        .readCurrentAverages [], .setThreshold [7], .setTriggerMode [2], .setAlpha [50], .reset [], .recalibrate [],
        .storeSettings []],
      after (exec i base) (fun _ => true) = true := by decide

/-- With an overflow and without; and a state at which each class is raised. -/
theorem wit_TxOverflowMarksALostResponse :
    after (exec (.getThresholdResp 0x07) { base with tx := ringOf 32 (List.replicate 24 0x01) })
      (fun t => decide (t.txOverflow = true)) = true ∧
    after (exec (.getThresholdResp 0x07) base) (fun t => decide (t.txOverflow = false)) = true ∧
    agentErrors .main (arrived [0xAA, 0x55, 0xAA, 0x55, 0x03, 0x03, 0x07, 0x06]) = [.framingError] ∧
    agentErrors .main (got [0xAA, 0x55, 0xAA, 0x55, 0x03, 0x02, 0x01]) = [.malformedPayload] ∧
    agentErrors .main (got [0xAA, 0x55, 0xAA, 0x55, 0x06, 0x03, 0x04, 0x01]) = [.invalidFieldValue] ∧
    agentErrors .main (got [0xAA, 0x55, 0xAA, 0x55, 0x0C, 0x03, 0x65, 0x6A]) = [.invalidFieldValue] ∧
    agentErrors .main (got [0xAA, 0x55, 0xAA, 0x55, 0x0C, 0x03, 0x64, 0x6B]) = [] ∧
    agentErrors .main (atB2 []) = [.settingsChecksumError] ∧
    agentErrors .bus (busPending .buserr base) = [.busLevelError] ∧
    agentErrors .main { got [0xAA, 0x55, 0xAA, 0x55, 0x02, 0x02, 0x00] with
      tx := ringOf 32 (List.replicate 24 0x01), micro := .build (.getThresholdResp 0x07) } = [.txOverflow] := by decide

/-- Those states keep the invariant. -/
theorem wit_TxOverflowMarksALostResponse_invariant :
    Invariant (arrived [0xAA, 0x55, 0xAA, 0x55, 0x03, 0x03, 0x07, 0x06]) ∧
    Invariant (got [0xAA, 0x55, 0xAA, 0x55, 0x03, 0x02, 0x01]) ∧ Invariant (atB2 []) ∧
    Invariant (busPending .buserr base) ∧
    Invariant { got [0xAA, 0x55, 0xAA, 0x55, 0x02, 0x02, 0x00] with
      tx := ringOf 32 (List.replicate 24 0x01), micro := .build (.getThresholdResp 0x07) } :=
  ⟨invB_sound (by decide), invB_sound (by decide), invB_sound (by decide), invB_sound (by decide), invB_sound (by decide)⟩

/-- The largest response with exactly enough room, and with one byte too little. -/
theorem wit_ResponseRowsCommitWholeOrNothing :
    MainRuns { got threshold7 with micro := .build (.getThresholdResp 0x07) } ∧
    { got threshold7 with micro := .build (.getThresholdResp 0x07) }.micro = .build (.getThresholdResp 0x07) ∧
    (Instr.getIdAndVersionResp Params.default.boardId 0x01).isRequest = false ∧
    RingOk 32 (ringOf 32 (List.replicate 7 0x01)) ∧
    (encode (.getIdAndVersionResp Params.default.boardId 0x01)).length ≤ (ringOf 32 (List.replicate 7 0x01)).free 32 ∧
    RingOk 32 (ringOf 32 (List.replicate 8 0x01)) ∧
    (ringOf 32 (List.replicate 8 0x01)).free 32 < (encode (.getIdAndVersionResp Params.default.boardId 0x01)).length :=
  ⟨runsB_sound (by decide), by decide, by decide, ringB_sound (by decide), by decide, ringB_sound (by decide), by decide⟩

/-- Each of the four responses fits the empty ring; the 8-byte ones fit 8 free bytes and not 7. -/
theorem wit_ReadCommandsAnswer :
    MainRuns base ∧ RingOk base.params.txCap base.tx ∧ base.params.txCap ≤ 256 ∧
    (encode (.getIdAndVersionResp base.params.boardId base.params.boardVersion)).length ≤ base.tx.free base.params.txCap ∧
    (encode (.getThresholdResp 0x07)).length = 8 ∧ (encode (.getTriggerModeResp 0x07)).length = 8 ∧
    (encode (.getAlphaResp 0x07)).length = 8 ∧
    RingOk 32 (ringOf 32 (List.replicate 23 0x01)) ∧ 8 ≤ (ringOf 32 (List.replicate 23 0x01)).free 32 ∧
    RingOk 32 (ringOf 32 (List.replicate 24 0x01)) ∧ (ringOf 32 (List.replicate 24 0x01)).free 32 < 8 :=
  ⟨runsB_sound (by decide), ringB_sound (by decide), by decide, by decide, by decide, by decide, by decide, ringB_sound (by decide), by decide,
    ringB_sound (by decide), by decide⟩

/-- The bounds of the conversions of R181 and R187: a NaN, `-0.0`, 1.0, the largest value below 65535.0, 65535.0, infinity; and
a coefficient whose sum is 101.0. -/
theorem wit_conversions :
    0x7F800000 < (0x7F800001 : F32).toNat % 2 ^ 31 ∧ f2u16 0x7F800001 = 0 ∧
    2 ^ 31 ≤ (0x80000000 : F32).toNat ∧ f2u16 0x80000000 = 0 ∧ f2u16 0x3F7FFFFF = 0 ∧ f2u16 0x3F800000 = 1 ∧
    (f2u16 0x477FFEFF).toNat = (2 ^ 23 + 0x477FFEFF % 2 ^ 23) * 2 ^ (0x477FFEFF / 2 ^ 23 - 127) / 2 ^ 23 ∧
    f2u16 0x477FFF00 = 65535 ∧ f2u16 0x7F800000 = 65535 ∧
    fadd (fmul 0x3F80A3D7 0x42C80000) 0x3F000000 = 0x42CA0000 ∧ alphaToPercent 0x3F80A3D7 = 100 ∧
    alphaToPercent 0x7F800001 = 0 ∧ alphaToPercent 0xBF800000 = 0 := by decide

/-- The premises of the second halves of `SetThresholdThenGetReturnsIt`, `SetTriggerModeThenGetReturnsIt` and
`SetAlphaThenGetReturnsIt`, and the boundary bytes of their cases. -/
theorem wit_set_then_get :
    MainRuns base ∧ RingOk base.params.txCap base.tx ∧ base.params.txCap ≤ 256 ∧ 8 ≤ base.tx.free base.params.txCap ∧
    (3 : Byte).toNat ≤ 3 ∧ 3 < (4 : Byte).toNat ∧ 100 ≤ (100 : Byte).toNat ∧ 100 ≤ (255 : Byte).toNat :=
  ⟨runsB_sound (by decide), ringB_sound (by decide), by decide, by decide, by decide, by decide, by decide, by decide⟩

theorem wit_SettleDelayThenRemoval :
    Invariant { got [0xAA, 0x55, 0xAA, 0x55, 0x0A, 0x02, 0x08] with micro := .remove, mainBusy := true } ∧
    Invariant { got [0xAA, 0x55, 0xAA, 0x55, 0x0A, 0x02, 0x08] with micro := .remove } ∧
    (got [0xAA, 0x55, 0xAA, 0x55, 0x0A, 0x02, 0x08]).rst = false ∧
    (got [0xAA, 0x55, 0xAA, 0x55, 0x0A, 0x02, 0x08]).boot = .done ∧
    (got [0xAA, 0x55, 0xAA, 0x55, 0x0A, 0x02, 0x08]).mainBusy = false :=
  ⟨invB_sound (by decide), invB_sound (by decide), by decide, by decide, by decide⟩

/-- Two values taken, and three, with room for the response and without. -/
theorem wit_SnapshotStepReadsOneChannel :
    MainRuns { base with micro := .snapshot .averages [1, 2] } ∧
    { base with micro := .snapshot .averages [1, 2] }.micro = .snapshot .averages [1, 2] ∧ [(1 : Half), 2].length < 3 ∧
    MainRuns { base with micro := .snapshot .values [1, 2, 3] } ∧
    { base with micro := .snapshot .values [1, 2, 3] }.micro = .snapshot .values [1, 2, 3] ∧
    RingOk 32 (ringOf 32 (List.replicate 16 0x01)) ∧ 15 ≤ (ringOf 32 (List.replicate 16 0x01)).free 32 ∧
    RingOk 32 (ringOf 32 (List.replicate 17 0x01)) ∧ (ringOf 32 (List.replicate 17 0x01)).free 32 < 15 :=
  ⟨runsB_sound (by decide), by decide, by decide, runsB_sound (by decide), by decide, ringB_sound (by decide), by decide,
    ringB_sound (by decide), by decide⟩

/-- The request with room for its response, and without. -/
theorem wit_ReadCurrentValuesAnswers :
    Invariant (arrived [0xAA, 0x55, 0xAA, 0x55, 0x04, 0x02, 0x06]) ∧ MainReady (arrived [0xAA, 0x55, 0xAA, 0x55, 0x04, 0x02, 0x06]) ∧
    noiseLen (arrived [0xAA, 0x55, 0xAA, 0x55, 0x04, 0x02, 0x06]).rxHeld = 0 ∧
    (match parseFrame 31 (arrived [0xAA, 0x55, 0xAA, 0x55, 0x04, 0x02, 0x06]).rxHeld with
      | .ok r => decide (r = (0x04, []))
      | .error _ => false) = true ∧
    15 ≤ (ringOf 32 (List.replicate 16 0x01)).free 32 ∧ (ringOf 32 (List.replicate 17 0x01)).free 32 < 15 :=
  ⟨invB_sound (by decide), readyB_sound (by decide), by decide, by decide, by decide, by decide⟩

theorem wit_ReadCurrentAveragesAnswers :
    Invariant (arrived [0xAA, 0x55, 0xAA, 0x55, 0x05, 0x02, 0x07]) ∧ MainReady (arrived [0xAA, 0x55, 0xAA, 0x55, 0x05, 0x02, 0x07]) ∧
    noiseLen (arrived [0xAA, 0x55, 0xAA, 0x55, 0x05, 0x02, 0x07]).rxHeld = 0 ∧
    (match parseFrame 31 (arrived [0xAA, 0x55, 0xAA, 0x55, 0x05, 0x02, 0x07]).rxHeld with
      | .ok r => decide (r = (0x05, []))
      | .error _ => false) = true :=
  ⟨invB_sound (by decide), readyB_sound (by decide), by decide, by decide⟩

end Sys2Proof.Tests
end

/-! PROOF. What the ring operations keep and what they do to the bytes held (R81 to R87), for the invariant and the scanner. -/
namespace Sys2Proof.Machine

/-- The bounds of R4 that the proofs about a step use. -/
structure ParamBounds (p : Params) : Prop where
  rxLower : 9 ≤ p.rxCap
  rxUpper : p.rxCap ≤ 256
  txLower : 25 ≤ p.txCap
  txUpper : p.txCap ≤ 256
  fractPos : 1 ≤ p.fractMax
  fractUpper : p.fractMax ≤ 256
  tickFract : p.tickFractInc < p.fractMax

theorem paramBounds_of_ok {p : Params} (h : p.ok = true) : ParamBounds p := by
  simp only [Params.ok, Bool.and_eq_true, decide_eq_true_eq] at h
  obtain ⟨⟨⟨⟨⟨⟨⟨⟨⟨hr1, hr2⟩, ht1, ht2⟩, -⟩, hf1, hf2⟩, hinc⟩, -⟩, -⟩, -⟩, -⟩ := h
  exact ⟨hr1, hr2, ht1, ht2, hf1, hf2, hinc⟩

/-- An index below the capacity moved on by at most the capacity wraps at most once. -/
theorem wrap_eq {cap i n : Nat} (hi : i < cap) (hn : n ≤ cap) :
    (i + n) % cap = if i + n < cap then i + n else i + n - cap := by
  split
  · exact Nat.mod_eq_of_lt ‹_›
  · rw [Nat.mod_eq_sub_mod (by omega), Nat.mod_eq_of_lt (by omega)]

/-- `count` without the remainder, for indices below the capacity (R81). -/
theorem count_eq_ite {cap : Nat} {q : Ring} (h : RingOk cap q) :
    q.count cap =
      if q.tail.toNat ≤ q.head.toNat then q.head.toNat - q.tail.toNat else q.head.toNat + cap - q.tail.toNat := by
  have hh := h.head
  have ht := h.tail
  have hsum : q.head.toNat + cap - q.tail.toNat = q.head.toNat + (cap - q.tail.toNat) := by omega
  rw [Ring.count, hsum, wrap_eq hh (by omega)]
  split <;> split <;> omega

/-- An empty ring with canonical storage inside its byte space is well formed. -/
theorem ringOk_of_storage {cap : Nat} {m : Memory} (h0 : 0 < cap) (hw : Memory.wf m = true)
    (hi : Memory.within cap m = true) : RingOk cap { Ring.empty with storage := m } :=
  ⟨h0, h0, hw, hi⟩

section
variable {cap : Nat} {q q' : Ring}

theorem RingOk.pos (h : RingOk cap q) : 0 < cap := Nat.zero_lt_of_lt h.head

/-- `advance` keeps a ring well formed (R86). -/
theorem ringOk_advance {n : Nat} (h : RingOk cap q) (hc : cap ≤ 256) (ha : q.advance cap n = some q') :
    RingOk cap q' := by
  obtain ⟨-, rfl⟩ := advance_eq_some ha
  exact { h with tail := moveIndex_lt cap q.tail n h.pos hc }

/-- `dequeue` keeps a ring well formed (R85). -/
theorem ringOk_dequeue {b : Byte} (h : RingOk cap q) (hc : cap ≤ 256) (hd : q.dequeue cap = some (b, q')) :
    RingOk cap q' := by
  obtain ⟨-, -, rfl⟩ := dequeue_eq_some hd
  exact { h with tail := moveIndex_lt cap q.tail 1 h.pos hc }

/-- `enqueue` keeps a ring well formed (R84). -/
theorem ringOk_enqueue {b : Byte} (h : RingOk cap q) (hc : cap ≤ 256) (he : q.enqueue cap b = some q') :
    RingOk cap q' := by
  obtain ⟨-, rfl⟩ := enqueue_eq_some he
  exact
    { head := moveIndex_lt cap q.head 1 h.pos hc
      tail := h.tail
      canonical := write_wf _ _ _ h.canonical
      inside := write_within cap _ _ _ h.inside (Nat.mod_lt _ h.pos) }

/-- `enqueueAll` keeps a ring well formed (R87). -/
theorem ringOk_enqueueAll {bs : List Byte} (h : RingOk cap q) (hc : cap ≤ 256)
    (he : q.enqueueAll cap bs = some q') : RingOk cap q' := by
  obtain ⟨-, rfl⟩ := enqueueAll_eq_some he
  exact
    { head := moveIndex_lt cap q.head _ h.pos hc
      tail := h.tail
      canonical := writeRun_wf cap _ _ _ h.canonical
      inside := writeRun_within cap _ _ _ h.pos h.inside }

/-- An accepted byte makes the ring one longer (R84). -/
theorem count_enqueue {b : Byte} (h : RingOk cap q) (hc : cap ≤ 256) (he : q.enqueue cap b = some q') :
    q'.count cap = q.count cap + 1 := by
  have hhead := h.head
  have htail := h.tail
  have hbefore := count_eq_ite h
  have hafter := count_eq_ite (ringOk_enqueue h hc he)
  obtain ⟨hfull, rfl⟩ := enqueue_eq_some he
  simp only [Ring.isFull, decide_eq_false_iff_not] at hfull
  simp only [moveIndex_toNat cap q.head 1 h.pos hc] at hafter
  have hone : 1 ≤ cap := h.pos
  rw [wrap_eq hhead hone] at hfull hafter
  rw [hbefore, hafter]
  split_ifs at hfull ⊢ <;> omega

/-- `advance` drops the oldest bytes (R86). -/
theorem count_advance {n : Nat} (h : RingOk cap q) (hc : cap ≤ 256) (ha : q.advance cap n = some q') :
    q'.count cap = q.count cap - n := by
  have hhead := h.head
  have htail := h.tail
  have hlt := count_lt cap q h.pos
  have hbefore := count_eq_ite h
  have hafter := count_eq_ite (ringOk_advance h hc ha)
  obtain ⟨hn, rfl⟩ := advance_eq_some ha
  simp only [moveIndex_toNat cap q.tail n h.pos hc] at hafter
  rw [wrap_eq htail (by omega)] at hafter
  rw [hbefore] at hn hlt ⊢
  rw [hafter]
  split_ifs at hn ⊢ <;> omega

/-- The bytes held after `advance` are the bytes held before it without the oldest (R80, R86). -/
theorem held_advance {n : Nat} (h : RingOk cap q) (hc : cap ≤ 256) (ha : q.advance cap n = some q') :
    q'.held cap = (q.held cap).drop n := by
  have hlen := count_advance h hc ha
  obtain ⟨hn, rfl⟩ := advance_eq_some ha
  refine List.ext_getElem (by simpa using hlen) fun i hi hi' => ?_
  simp only [Ring.held, Memory.readRun, List.getElem_map, List.getElem_range, List.getElem_drop,
    moveIndex_toNat cap q.tail n h.pos hc, Nat.mod_add_mod, Nat.add_assoc]

/-- `advance` answers exactly inside its precondition (R86). -/
theorem advance_of_le {n : Nat} (hn : n ≤ q.count cap) :
    q.advance cap n = some { q with tail := Ring.moveIndex cap q.tail n } := by
  simp [Ring.advance, hn]

end

/-- A run of reads is the first byte and the run after it. -/
theorem readRun_succ (cap : Nat) (m : Memory) (a n : Nat) :
    Memory.readRun cap m a (n + 1) = Memory.read m (a % cap) :: Memory.readRun cap m (a + 1) n := by
  simp [Memory.readRun, List.range_succ_eq_map, Nat.add_assoc, Nat.add_comm 1]

/-- A run of writes no longer than the space is read back (R40, R41). -/
theorem readRun_writeRun (cap : Nat) (m : Memory) (a : Nat) (bs : List Byte) (hw : Memory.wf m = true)
    (hl : bs.length ≤ cap) : Memory.readRun cap (Memory.writeRun cap m a bs) a bs.length = bs := by
  induction bs generalizing m a with
  | nil => rfl
  | cons b bs ih =>
    have hlen : bs.length + 1 ≤ cap := by simpa using hl
    have hlt := Nat.mod_lt a (show 0 < cap by omega)
    have hlater : ∀ i, i < bs.length → (a + 1 + i) % cap ≠ a % cap := by
      intro i hi
      rw [Nat.add_assoc, ← Nat.mod_add_mod, wrap_eq hlt (by omega)]
      split <;> omega
    rw [List.length_cons, readRun_succ, Memory.writeRun, ih _ _ (write_wf _ _ _ hw) (by omega),
      read_writeRun_other _ _ _ _ _ hlater, read_write_self m _ b 0 hw]

end Sys2Proof.Machine

/-! PROOF. What one step can do, said once: the decoder and the scanner, each instruction, each agent, the schedule. -/
namespace Sys2Proof.Machine

/-! ## The scanner and the decoder -/

/-- No more noise is dropped than there are bytes (R95). -/
theorem noiseLen_le (bytes : List Byte) : noiseLen bytes ≤ bytes.length := by
  induction bytes with
  | nil => exact Nat.zero_le _
  | cons b bs ih =>
    unfold noiseLen
    split
    · exact Nat.zero_le _
    · exact Nat.succ_le_succ ih

/-- A good frame has its opcode at byte 4, its length at byte 5, is whole, and its payload is the window from byte 6 on
(R62, R66). -/
theorem parseFrame_eq_ok {n : Nat} {bytes payload : List Byte} {op : Byte}
    (h : parseFrame n bytes = .ok (op, payload)) :
    bytes[4]? = some op ∧ ∃ len, bytes[5]? = some len ∧ 2 ≤ len.toNat ∧ len.toNat + 5 ≤ bytes.length ∧
      payload = (bytes.drop 6).take (len.toNat - 2) := by
  unfold parseFrame at h
  split at h
  next b0 b1 b2 b3 op' rest =>
    split_ifs at h
    split at h
    next => cases h
    next len body =>
      split_ifs at h with hshort hlong hbody
      obtain ⟨rfl, rfl⟩ := Prod.mk.inj (Except.ok.inj h)
      exact ⟨rfl, len, rfl, by omega, by simp only [List.length_cons]; omega, rfl⟩
  next => cases h

/-- A good frame is at least as long as its payload and the seven bytes around it (R62). -/
theorem parseFrame_length_le {n : Nat} {bytes payload : List Byte} {op : Byte}
    (h : parseFrame n bytes = .ok (op, payload)) : payload.length + 7 ≤ bytes.length := by
  obtain ⟨-, len, -, hlen, hwhole, rfl⟩ := parseFrame_eq_ok h
  simp only [List.length_take, List.length_drop]
  omega

/-- As many bytes are held as the receive ring counts. -/
@[simp] theorem rxHeld_length (s : State) : s.rxHeld.length = s.rx.count s.params.rxCap := held_length _ _

/-- The scanner's `advance` inside its precondition. -/
theorem advanceRx_of_le {n : Nat} {s : State} (h : n ≤ s.rx.count s.params.rxCap) :
    advanceRx n s = .next { s with rx := { s.rx with tail := Ring.moveIndex s.params.rxCap s.rx.tail n } } := by
  rw [advanceRx, advance_of_le h]

/-- Behind the noise a good frame: only the noise is removed, and the dispatcher is next (R95, R99). -/
theorem scanFrame_of_ok {s : State} {op : Byte} {payload : List Byte}
    (h : parseFrame (s.params.rxCap - 1) (s.rxHeld.drop (noiseLen s.rxHeld)) = .ok (op, payload)) :
    scanFrame s = .next { s with
      rx := { s.rx with tail := Ring.moveIndex s.params.rxCap s.rx.tail (noiseLen s.rxHeld) }
      micro := .dispatch
      scanLen := payload.length + 7 } := by
  have hnoise : noiseLen s.rxHeld ≤ s.rx.count s.params.rxCap := by simpa using noiseLen_le s.rxHeld
  simp only [scanFrame, advanceRx_of_le hnoise, thenNext_next, h]

/-! ## Flags of the trigger controller -/

/-- The Trigger phase moves the phase only, or fires (R130, R134). -/
theorem triggerEvaluate_cases (s : State) :
    triggerEvaluate s = { s with phase := .debounce } ∨
    triggerEvaluate s = { s with
      trigOut := true
      triggered := false
      intMask := false
      debounce := ⟨s.settings.debounceLengthMillis, s.clock.millis⟩
      phase := .debounce } := by
  unfold triggerEvaluate
  dsimp only
  split
  · exact .inr rfl
  · exact .inl rfl

/-- The Debounce phase ends the pulse when it has expired, and else moves the phase only (R136, R138). -/
theorem debounceCheck_cases (s : State) :
    (debounceExpired s.clock.millis s.debounce = true ∧
      debounceCheck s = { s with
        trigOut := false
        debounce := { s.debounce with counter := 0 }
        intMask := false
        phase := .scan }) ∨
    (debounceExpired s.clock.millis s.debounce = false ∧
      debounceCheck s = { s with intMask := false, phase := .scan }) := by
  cases h : debounceExpired s.clock.millis s.debounce with
  | true => exact .inl ⟨rfl, by simp [debounceCheck, clockNow, enterCritical, leaveCritical, h]⟩
  | false => exact .inr ⟨rfl, by simp [debounceCheck, clockNow, enterCritical, leaveCritical, h]⟩

/-- A hold length of zero has always expired (R139). -/
theorem debounceExpired_of_counter_eq_zero {now : Word} {d : Debounce} (h : d.counter = 0) :
    debounceExpired now d = true := by simp [debounceExpired, h]

/-! ## Instructions -/

/-- A restart of the calibration clears every centerline and writes no other channel register (R122). -/
theorem chan_restartCalibration (s : State) (c : BitVec 2) :
    (restartCalibration s).chan c = { s.chan c with centerline := f32Zero } :=
  chan_mapChannels s (fun x => { x with centerline := f32Zero }) c

/-- A store writes the persistent block and begins the settle delay (R160). -/
theorem settingsSave_eq (s : State) : settingsSave s =
    { s with nv := Memory.writeRun nvBytes [] 0 (packSettings s.settings), mainBusy := true } := by
  simp only [settingsSave, nvWrite]

theorem exec_storeSettings (p : List Byte) (s : State) : exec (.storeSettings p) s = .next
    { s with nv := Memory.writeRun nvBytes [] 0 (packSettings s.settings), mainBusy := true } := by
  simp only [exec, execStoreSettings, settingsSave_eq]

/-- What the meaning of any row of the table may change, and how (R190, R103): a request its command's registers and where
`Main` goes next, a response the transmit ring or `txOverflow`. -/
structure ExecFrame (s t : State) : Prop where
  /-- No other register changes. -/
  frame : t = { s with
    settings := t.settings
    ch := t.ch
    calCycle := t.calCycle
    calRemaining := t.calRemaining
    nv := t.nv
    tx := t.tx
    txOverflow := t.txOverflow
    intMask := t.intMask
    mainBusy := t.mainBusy
    micro := t.micro }
  /-- No raw sample is written. -/
  raw : ∀ c, (t.chan c).rawSample = (s.chan c).rawSample
  /-- The persistent block stays or is replaced as a whole (R57). -/
  nv : t.nv = s.nv ∨ ∃ block, t.nv = Memory.writeRun nvBytes [] 0 block
  /-- The transmit ring stays or takes a whole frame (R104). -/
  tx : t.tx = s.tx ∨ ∃ bytes, s.tx.enqueueAll s.params.txCap bytes = some t.tx
  /-- The overflow bit is never cleared (R18). -/
  overflow : s.txOverflow = true → t.txOverflow = true
  /-- A critical section leaves the interrupts unmasked (R50). -/
  mask : t.intMask = s.intMask ∨ t.intMask = false
  /-- Only a handler that returns at once begins a settle delay (R238). -/
  busy : t.mainBusy = s.mainBusy ∨ t.micro = s.micro
  /-- The handler returns, or begins a snapshot, or calls the frame builder with a response row (R49, R171). -/
  micro : t.micro = s.micro ∨ (∃ kind v, t.micro = .snapshot kind [v]) ∨
    ∃ response, t.micro = .build response ∧ response.isRequest = false

namespace ExecFrame

/-- A row that changes settings at most, in a critical section or not. -/
theorem ofSettings (s : State) (x : Settings) {m : Bool} (hm : m = s.intMask ∨ m = false) :
    ExecFrame s { s with settings := x, intMask := m } :=
  ⟨rfl, fun _ => rfl, .inl rfl, .inl rfl, id, hm, .inl rfl, .inl rfl⟩

theorem refl (s : State) : ExecFrame s s := ofSettings s s.settings (.inl rfl)

/-- A restart of the calibration in a critical section, with settings assigned before it or not (R122, R184). -/
theorem ofRestart (s : State) (x : Settings) :
    ExecFrame s (critical (fun u => restartCalibration { u with settings := x }) s) :=
  ⟨rfl, fun c => (congrArg Channel.rawSample (chan_restartCalibration { enterCritical s with settings := x } c) :),
    .inl rfl, .inl rfl, id, .inr rfl, .inl rfl, .inl rfl⟩

/-- A store of any block, with the settle delay that follows it (R160). -/
theorem ofStore (s : State) (block : List Byte) :
    ExecFrame s { s with nv := Memory.writeRun nvBytes [] 0 block, mainBusy := true } :=
  ⟨rfl, fun _ => rfl, .inr ⟨block, rfl⟩, .inl rfl, id, .inl rfl, .inr rfl, .inl rfl⟩

/-- A handler that answers (R171). -/
theorem ofAnswer (s : State) {response : Instr} (h : response.isRequest = false) : ExecFrame s (answer response s) :=
  ⟨rfl, fun _ => rfl, .inl rfl, .inl rfl, id, .inl rfl, .inl rfl, .inr (.inr ⟨response, rfl, h⟩)⟩

/-- The first snapshot of opcode 0x04 or 0x05 (R49). -/
theorem ofSnapshot (s : State) (kind : SnapKind) : ExecFrame s (beginSnapshot kind s) :=
  ⟨rfl, fun _ => rfl, .inl rfl, .inl rfl, id, .inr rfl, .inl rfl, .inr (.inl ⟨kind, _, rfl⟩)⟩

/-- The frame builder (R104). -/
theorem ofBuild (s : State) (op : Byte) (payload : List Byte) : ExecFrame s (buildFrame op payload s) := by
  obtain ⟨q, hq, he⟩ | ⟨-, he⟩ := buildFrame_cases op payload s
  · rw [he]
    exact ⟨rfl, fun _ => rfl, .inl rfl, .inr ⟨_, hq⟩, id, .inl rfl, .inl rfl, .inl rfl⟩
  · rw [he]
    exact ⟨rfl, fun _ => rfl, .inl rfl, .inl rfl, fun _ => rfl, .inl rfl, .inl rfl, .inl rfl⟩

end ExecFrame

/-- Every row completes, within that frame (R190). -/
theorem exec_frame (i : Instr) (s : State) : ∃ t, exec i s = .next t ∧ ExecFrame s t := by
  cases i with
  | getIdAndVersion p => exact ⟨_, rfl, .ofAnswer s rfl⟩
  | getThreshold p => exact ⟨_, rfl, .ofAnswer s rfl⟩
  | getTriggerMode p => exact ⟨_, rfl, .ofAnswer s rfl⟩
  | getAlpha p => exact ⟨_, rfl, .ofAnswer s rfl⟩
  | readCurrentValues p => exact ⟨_, rfl, .ofSnapshot s .values⟩
  | readCurrentAverages p => exact ⟨_, rfl, .ofSnapshot s .averages⟩
  | setThreshold p =>
    cases p with
    | nil => exact ⟨_, rfl, .refl s⟩
    | cons b p => exact ⟨_, rfl, .ofSettings s _ (.inr rfl)⟩
  | setTriggerMode p =>
    cases p with
    | nil => exact ⟨_, rfl, .refl s⟩
    | cons b p =>
      by_cases hb : b.toNat ≤ 3
      · exact ⟨{ s with settings := { s.settings with trigMode := b } },
          by simp [exec, execSetTriggerMode, operandU8, hb], .ofSettings s _ (.inl rfl)⟩
      · exact ⟨s, by simp [exec, execSetTriggerMode, operandU8, hb], .refl s⟩
  | setAlpha p =>
    cases p with
    | nil => exact ⟨_, rfl, .refl s⟩
    | cons b p => exact ⟨_, rfl, .ofSettings s _ (.inr rfl)⟩
  | reset p => exact ⟨_, rfl, .ofRestart s (defaultSettings s.params)⟩
  | recalibrate p => exact ⟨_, rfl, .ofRestart s s.settings⟩
  | storeSettings p => exact ⟨_, exec_storeSettings p s, .ofStore s (packSettings s.settings)⟩
  | getIdAndVersionResp identifier version => exact ⟨_, rfl, .ofBuild s _ _⟩
  | getThresholdResp threshold => exact ⟨_, rfl, .ofBuild s _ _⟩
  | readCurrentValuesResp v0 v1 v2 v3 => exact ⟨_, rfl, .ofBuild s _ _⟩
  | readCurrentAveragesResp v0 v1 v2 v3 => exact ⟨_, rfl, .ofBuild s _ _⟩
  | getTriggerModeResp mode => exact ⟨_, rfl, .ofBuild s _ _⟩
  | getAlphaResp percent => exact ⟨_, rfl, .ofBuild s _ _⟩

theorem execFrame_of_exec {i : Instr} {s t : State} (h : exec i s = .next t) : ExecFrame s t := by
  obtain ⟨u, hu, hf⟩ := exec_frame i s
  obtain rfl : u = t := Host.Outcome.next.inj (hu.symm.trans h)
  exact hf

/-- The dispatcher stays within the frame of a row, which an opcode without a row keeps (R71). -/
theorem execFrame_of_dispatch {s t : State} (h : dispatchFrame s = .next t) :
    ExecFrame { s with micro := .remove } t := by
  obtain ⟨-, ⟨i, -, he⟩ | ⟨-, rfl⟩⟩ := dispatchFrame_eq_next h
  · exact execFrame_of_exec he
  · exact .refl _

/-- A snapshot that is not the last is followed by a snapshot with one value more, the last one by the frame builder
(R49). -/
theorem snapshotStep_eq_next {kind : SnapKind} {taken : List Half} {s t : State} (hlen : taken.length ≤ 3)
    (h : snapshotStep kind taken s = .next t) :
    ∃ m, t = { s with intMask := false, micro := m } ∧
      ((∃ r, m = .build r ∧ r.isRequest = false) ∨
        ∃ v, m = .snapshot kind (taken ++ [v]) ∧ taken.length ≤ 2) := by
  obtain ⟨m, hm, hcases⟩ := snapshotStep_cases kind taken s
  refine ⟨m, (Host.Outcome.next.inj (hm.symm.trans h)).symm, ?_⟩
  obtain hbuild | ⟨v, rfl⟩ := hcases
  · exact .inl hbuild
  · refine .inr ⟨v, rfl, ?_⟩
    by_contra hmore
    obtain ⟨v0, v1, v2, rfl⟩ := List.length_eq_three.1 (show taken.length = 3 by omega)
    cases kind <;> simp [snapshotStep, answer] at hm

/-! ## The step of `Main` -/

/-- The steps of `Main`, by where it is: boot B1 to B4 (R231), the three phases (R236), the micro-steps of a frame (R52). -/
inductive MainMove (s : State) : State → Prop where
  | b1 (hb : s.boot = .b1) : MainMove s { s with boot := .b2 }
  | b2 (hb : s.boot = .b2) : MainMove s { settingsLoad s with boot := .b3 }
  | b3 (hb : s.boot = .b3) : MainMove s { restartCalibration s with boot := .b4 }
  | b4 (hb : s.boot = .b4) : MainMove s { s with intMask := false, boot := .done }
  | scan {t : State} (hb : s.boot = .done) (hm : s.micro = .phaseStep) (hp : s.phase = .scan)
      (h : scanFrame s = .next t) : MainMove s t
  | trigger (hb : s.boot = .done) (hm : s.micro = .phaseStep) (hp : s.phase = .trigger) :
      MainMove s (triggerEvaluate s)
  | debounce (hb : s.boot = .done) (hm : s.micro = .phaseStep) (hp : s.phase = .debounce) :
      MainMove s (debounceCheck s)
  | dispatch {t : State} (hb : s.boot = .done) (hm : s.micro = .dispatch) (h : dispatchFrame s = .next t) :
      MainMove s t
  | snapshot {kind : SnapKind} {taken : List Half} {t : State} (hb : s.boot = .done)
      (hm : s.micro = .snapshot kind taken) (h : snapshotStep kind taken s = .next t) : MainMove s t
  | build {response : Instr} {t : State} (hb : s.boot = .done) (hm : s.micro = .build response)
      (h : exec response { s with micro := .remove } = .next t) : MainMove s t
  | remove {t : State} (hb : s.boot = .done) (hm : s.micro = .remove) (h : removeFrame s = .next t) : MainMove s t

/-- A phase step of the main loop is one of the three phases' (R236). -/
theorem mainMove_of_phaseStep {s t : State} (hb : s.boot = .done) (hm : s.micro = .phaseStep)
    (h : phaseStep s = .next t) : MainMove s t := by
  cases hp : s.phase with
  | scan => exact .scan hb hm hp (by simpa only [phaseStep, hp] using h)
  | trigger =>
    obtain rfl := Host.Outcome.next.inj (by simpa only [phaseStep, hp] using h)
    exact .trigger hb hm hp
  | debounce =>
    obtain rfl := Host.Outcome.next.inj (by simpa only [phaseStep, hp] using h)
    exact .debounce hb hm hp

/-- The step of `Main` is one of those moves. -/
theorem mainMove_of_mainStep {s t : State} (h : mainStep s = .next t) : MainMove s t := by
  unfold mainStep at h
  split at h
  next hb => obtain rfl := Host.Outcome.next.inj h; exact .b1 hb
  next hb => obtain rfl := Host.Outcome.next.inj h; exact .b2 hb
  next hb => obtain rfl := Host.Outcome.next.inj h; exact .b3 hb
  next hb => obtain rfl := Host.Outcome.next.inj h; exact .b4 hb
  next hb =>
    split at h
    next hm => exact mainMove_of_phaseStep hb hm h
    next hm => exact .dispatch hb hm h
    next hm => exact .snapshot hb hm h
    next hm => exact .build hb hm h
    next hm => exact .remove hb hm h

/-- Boot step B2 loads a valid block, or loads and stores the defaults and begins a settle delay (R158, R233). -/
theorem settingsLoad_cases (s : State) :
    (blockValid (nvRead s) = true ∧ settingsLoad s = { s with settings := unpackSettings (nvRead s) }) ∨
    (blockValid (nvRead s) = false ∧
      settingsLoad s = { s with
        settings := defaultSettings s.params
        nv := Memory.writeRun nvBytes [] 0 (packSettings (defaultSettings s.params))
        mainBusy := true }) := by
  cases hv : blockValid (nvRead s) with
  | true => exact .inl ⟨rfl, by simp [settingsLoad, hv]⟩
  | false =>
    refine .inr ⟨rfl, ?_⟩
    simp only [settingsLoad, hv, Bool.false_eq_true, if_false, settingsSave_eq, assignDefaults]

/-! ## The handlers -/

/-- A tick writes the clock and clears its pending bit (R150). -/
theorem serveTick_eq (s : State) : serveTick s = { s with pendTick := false, clock := (clockTick s).clock } := rfl

/-- A conversion writes the channel file, the sampler's indices, the calibration's counters and the flag, which it never
clears (R110 to R119). -/
theorem convComplete_frame (raw : Half) (s : State) :
    convComplete raw s = { s with
      ch := (convComplete raw s).ch
      chanIdx := (convComplete raw s).chanIdx
      muxSel := (convComplete raw s).muxSel
      calCycle := (convComplete raw s).calCycle
      calRemaining := (convComplete raw s).calRemaining
      triggered := (convComplete raw s).triggered } ∧
    (s.triggered = true → (convComplete raw s).triggered = true) := by
  unfold convComplete
  dsimp only
  split
  · exact ⟨rfl, fun h => by simp [armedSample, takeSample, h]⟩
  · unfold calibratingSample
    dsimp only
    split_ifs
    · exact ⟨rfl, id⟩
    · exact ⟨rfl, id⟩
    · exact ⟨rfl, id⟩

/-- A write to one channel that keeps its raw sample keeps every raw sample. -/
theorem rawSample_of_ch_set {s t : State} {c : BitVec 2} {x : Channel} (ht : t.ch = (s.setChan c x).ch)
    (hx : x.rawSample = (s.chan c).rawSample) (d : BitVec 2) : (t.chan d).rawSample = (s.chan d).rawSample := by
  have hchan : t.chan d = (s.setChan c x).chan d := by simp only [State.chan, ht]
  rw [hchan]
  by_cases hd : c = d
  · subst hd
    rw [chan_setChan_self, hx]
  · rw [chan_setChan_other s c d x hd]

/-- A sample taken is stored in its channel, and no other raw sample changes (R111). -/
theorem rawSample_takeSample (raw : Half) (s : State) (d : BitVec 2) :
    ((takeSample raw s).chan d).rawSample = if s.chanIdx = d then raw else (s.chan d).rawSample := by
  have hchan : (takeSample raw s).chan d = (s.setChan s.chanIdx { s.chan s.chanIdx with rawSample := raw }).chan d := rfl
  rw [hchan]
  split
  next hd =>
    subst hd
    rw [chan_setChan_self]
  next hd => rw [chan_setChan_other _ _ _ _ hd]

/-- Calibrating mode writes no raw sample (R118). -/
theorem rawSample_calibratingSample (c : BitVec 2) (raw : Half) (s : State) (d : BitVec 2) :
    ((calibratingSample c raw s).chan d).rawSample = (s.chan d).rawSample := by
  unfold calibratingSample
  dsimp only
  split_ifs
  · rw [finalizeCenterlines, chan_mapChannels]
    exact rawSample_of_ch_set (s := s) rfl (by rfl) d
  · exact rawSample_of_ch_set (s := s) rfl (by rfl) d
  · exact rawSample_of_ch_set (s := s) rfl (by rfl) d

/-- After a conversion the channel sampled has the new raw sample, every other channel the one it had (R111). -/
theorem rawSample_convComplete (raw : Half) (s : State) (d : BitVec 2) :
    ((convComplete raw s).chan d).rawSample = if s.chanIdx = d then raw else (s.chan d).rawSample := by
  rw [← rawSample_takeSample]
  unfold convComplete
  dsimp only
  split
  · exact rawSample_of_ch_set (s := takeSample raw s) rfl (by rfl) d
  · exact rawSample_calibratingSample _ _ _ d

/-- `BusReceive` appends the byte or, on a full ring, does nothing (R90). -/
theorem busReceive_cases (b : Byte) (s : State) :
    busReceive b s = s ∨ ∃ q, s.rx.enqueue s.params.rxCap b = some q ∧ busReceive b s = { s with rx := q } := by
  unfold busReceive
  cases h : s.rx.enqueue s.params.rxCap b with
  | none => exact .inl rfl
  | some q => exact .inr ⟨q, rfl, rfl⟩

/-- `BusTransmit` takes the oldest byte or, on an empty ring, returns the filler (R91). -/
theorem busTransmit_cases (s : State) :
    busTransmit s = { s with busRead := s.busRead ++ [fillerByte] } ∨
    ∃ b q, s.tx.dequeue s.params.txCap = some (b, q) ∧ busTransmit s = { s with tx := q, busRead := s.busRead ++ [b] } := by
  unfold busTransmit
  cases h : s.tx.dequeue s.params.txCap with
  | none => exact .inl rfl
  | some r => exact .inr ⟨r.1, r.2, rfl, rfl⟩

/-- `Bus` serves its pending event or nothing, after a draw or without one (R205, U5). -/
theorem tryBus_cases (s : State) :
    ∃ n, tryBus s = { s with draws := n } ∨
      ∃ e, s.pendBus = some e ∧ tryBus s = busStep e { s with pendBus := none, draws := n } := by
  have hserve : ∀ n, serveBus { s with draws := n } = { s with draws := n } ∨
      ∃ e, s.pendBus = some e ∧
        serveBus { s with draws := n } = busStep e { s with pendBus := none, draws := n } := by
    intro n
    cases he : s.pendBus with
    | none => exact .inl (by simp [serveBus])
    | some e => exact .inr ⟨e, rfl, by simp [serveBus, returnFromInterrupt, takeInterrupt]⟩
  unfold tryBus
  split
  · refine ⟨s.draws + 1, ?_⟩
    split
    · exact hserve _
    · exact .inl rfl
  · exact ⟨s.draws, hserve s.draws⟩

/-! ## What a step does to the trigger registers, the clock and the overflow bit -/

/-- The output, the debounce and the clock stay; the sticky flag and the overflow bit are not cleared (R17 to R19, R26). -/
structure KeepsTrigger (s t : State) : Prop where
  flag : s.triggered = true → t.triggered = true
  out : t.trigOut = s.trigOut
  debounce : t.debounce = s.debounce
  clock : t.clock = s.clock
  overflow : s.txOverflow = true → t.txOverflow = true

theorem KeepsTrigger.refl (s : State) : KeepsTrigger s s := ⟨id, rfl, rfl, rfl, id⟩

theorem ExecFrame.keepsTrigger {s t : State} (h : ExecFrame s t) : KeepsTrigger s t where
  flag hs := (congrArg State.triggered h.frame).trans hs
  out := (congrArg State.trigOut h.frame :)
  debounce := (congrArg State.debounce h.frame :)
  clock := (congrArg State.clock h.frame :)
  overflow := h.overflow

/-- `Main` leaves the trigger registers alone but in the Trigger phase and in the Debounce phase. -/
theorem MainMove.keepsTrigger {s t : State} (h : MainMove s t) :
    KeepsTrigger s t ∨ s.boot = .done ∧ s.micro = .phaseStep ∧
      (s.phase = .trigger ∧ t = triggerEvaluate s ∨ s.phase = .debounce ∧ t = debounceCheck s) := by
  cases h with
  | b1 => exact .inl ⟨id, rfl, rfl, rfl, id⟩
  | b2 =>
    obtain ⟨-, he⟩ | ⟨-, he⟩ := settingsLoad_cases s
    · rw [he]
      exact .inl ⟨id, rfl, rfl, rfl, id⟩
    · rw [he]
      exact .inl ⟨id, rfl, rfl, rfl, id⟩
  | b3 => exact .inl ⟨id, rfl, rfl, rfl, id⟩
  | b4 => exact .inl ⟨id, rfl, rfl, rfl, id⟩
  | scan _ _ _ h =>
    obtain ⟨q, -, ⟨_, _, -, rfl⟩ | ⟨_, -, ⟨-, rfl⟩ | ⟨-, q', -, rfl⟩⟩⟩ := scanFrame_eq_next h
    · exact .inl ⟨id, rfl, rfl, rfl, id⟩
    · exact .inl ⟨id, rfl, rfl, rfl, id⟩
    · exact .inl ⟨id, rfl, rfl, rfl, id⟩
  | trigger hb hm hp => exact .inr ⟨hb, hm, .inl ⟨hp, rfl⟩⟩
  | debounce hb hm hp => exact .inr ⟨hb, hm, .inr ⟨hp, rfl⟩⟩
  | dispatch _ _ h => exact .inl { (execFrame_of_dispatch h).keepsTrigger with }
  | snapshot _ _ h =>
    obtain ⟨m, hm, -⟩ := snapshotStep_cases _ _ s
    obtain rfl := Host.Outcome.next.inj (hm.symm.trans h)
    exact .inl ⟨id, rfl, rfl, rfl, id⟩
  | build _ _ h => exact .inl { (execFrame_of_exec h).keepsTrigger with }
  | remove _ _ h =>
    obtain ⟨q, -, rfl⟩ := removeFrame_eq_next h
    exact .inl ⟨id, rfl, rfl, rfl, id⟩

theorem keepsTrigger_busStep (e : BusEvent) (s : State) : KeepsTrigger s (busStep e s) := by
  cases e with
  | rx b =>
    obtain he | ⟨q, -, he⟩ := busReceive_cases b s
    · rw [busStep, he]
      exact .refl s
    · rw [busStep, he]
      exact ⟨id, rfl, rfl, rfl, id⟩
  | txreq =>
    obtain he | ⟨b, q, -, he⟩ := busTransmit_cases s
    · rw [busStep, he]
      exact ⟨id, rfl, rfl, rfl, id⟩
    · rw [busStep, he]
      exact ⟨id, rfl, rfl, rfl, id⟩
  | buserr => exact ⟨id, rfl, rfl, rfl, id⟩

theorem keepsTrigger_tryBus (s : State) : KeepsTrigger s (tryBus s) := by
  obtain ⟨n, he | ⟨e, -, he⟩⟩ := tryBus_cases s
  · rw [he]
    exact ⟨id, rfl, rfl, rfl, id⟩
  · rw [he]
    exact { keepsTrigger_busStep e _ with }

theorem keepsTrigger_convComplete (raw : Half) (s : State) : KeepsTrigger s (convComplete raw s) := by
  obtain ⟨hframe, hflag⟩ := convComplete_frame raw s
  exact ⟨hflag, (congrArg State.trigOut hframe :), (congrArg State.debounce hframe :), (congrArg State.clock hframe :),
    fun h => (congrArg State.txOverflow hframe).trans h⟩

theorem keepsTrigger_serveConv (s : State) : KeepsTrigger s (serveConv s) := by
  unfold serveConv
  split
  next raw _ => exact { keepsTrigger_convComplete raw { s with pendConv := none } with }
  next => exact .refl s

/-! ## Any agent's step -/

/-- An agent let step takes its step or, not enabled, does nothing. -/
theorem runAgent_eq_next {a : Agent} {s t : State} (h : runAgent a s = .next t) :
    t = s ∨ enabled a s = true ∧ agentStep a s = .next t := by
  unfold runAgent at h
  split at h
  · exact .inr ⟨‹_›, h⟩
  · exact .inl (Host.Outcome.next.inj h).symm

/-- An agent's step leaves the trigger registers, the clock and a set overflow bit alone, but for a tick, the Trigger phase and
the Debounce phase. -/
theorem runAgent_keepsTrigger {a : Agent} {s t : State} (h : runAgent a s = .next t) :
    KeepsTrigger s t ∨ (a = .tick ∧ t = serveTick s) ∨
      (a = .main ∧ s.boot = .done ∧ s.micro = .phaseStep ∧
        (s.phase = .trigger ∧ t = triggerEvaluate s ∨ s.phase = .debounce ∧ t = debounceCheck s)) := by
  obtain rfl | ⟨-, h⟩ := runAgent_eq_next h
  · exact .inl (.refl t)
  cases a with
  | tick => exact .inr (.inl ⟨rfl, (Host.Outcome.next.inj h).symm⟩)
  | conv =>
    obtain rfl := Host.Outcome.next.inj h
    exact .inl (keepsTrigger_serveConv s)
  | bus =>
    obtain rfl := Host.Outcome.next.inj h
    exact .inl (keepsTrigger_tryBus s)
  | main =>
    obtain hk | hphase := (mainMove_of_mainStep h).keepsTrigger
    · exact .inl hk
    · exact .inr (.inr ⟨rfl, hphase⟩)
  | settle =>
    obtain rfl := Host.Outcome.next.inj h
    exact .inl ⟨id, rfl, rfl, rfl, id⟩

/-! ## Events and the schedule -/

/-- A tick that arrives is latched or discarded (R29, R230). -/
theorem arriveTick_eq_next {s t : State} (h : arriveTick s = .next t) : t = s ∨ t = { s with pendTick := true } := by
  unfold arriveTick at h
  split_ifs at h
  · exact .inl (Host.Outcome.next.inj h).symm
  · exact .inr (Host.Outcome.next.inj h).symm

/-- A count that arrives is in range and latched, or discarded (R11, R29, R230). -/
theorem arriveConv_eq_next {raw : Half} {s t : State} (h : arriveConv raw s = .next t) :
    t = s ∨ raw.toNat < 2 ^ s.params.adcBits ∧ t = { s with pendConv := some raw } := by
  unfold arriveConv at h
  split_ifs at h with _ hraw
  · exact .inl (Host.Outcome.next.inj h).symm
  · exact .inr ⟨by omega, (Host.Outcome.next.inj h).symm⟩

/-- A bus event that arrives moves the latch and the count of draws at most (R29, U5). -/
theorem arriveBus_eq_next {e : BusEvent} {s t : State} (h : arriveBus e s = .next t) :
    ∃ latch n, t = { s with pendBus := latch, draws := n } := by
  unfold arriveBus at h
  split at h
  · exact ⟨s.pendBus, s.draws, (Host.Outcome.next.inj h).symm⟩
  · split at h
    · exact ⟨some e, s.draws, (Host.Outcome.next.inj h).symm⟩
    · split at h
      · exact ⟨_, _, (Host.Outcome.next.inj h).symm⟩
      · cases h

/-- A step applies the next input or, with none left, is some agent let step, after a draw or without one. With no agent
enabled that is one that does nothing (R212, log 4). -/
theorem step_eq_next {s t : State} (h : step s = .next t) :
    (∃ i rest, s.inputs = i :: rest ∧ applyInput i { s with inputs := rest } = .next t) ∨
      ∃ a n, runAgent a { s with draws := n } = .next t := by
  obtain ⟨-, hinput | ⟨-, hfree⟩⟩ := stepOnce_eq_next h
  · exact .inl hinput
  · refine .inr ?_
    obtain ⟨hnone, he⟩ | ⟨a, -, he | he⟩ := freeSchedule_cases s
    · exact ⟨.main, s.draws, (runAgent_disabled (hnone .main)).trans (he.symm.trans hfree)⟩
    · exact ⟨a, s.draws, he.symm.trans hfree⟩
    · exact ⟨a, s.draws + 1, he.symm.trans hfree⟩

end Sys2Proof.Machine

/-! PROOF. The invariant of `Safety.lean`: it holds at reset (O43) and every step keeps it (O44). -/
namespace Sys2Proof.Machine

/-- The state at a release of `rst`, with any build within R4, canonical byte spaces and any unspecified settings, meets the
invariant (R33). Asserting `rst` gives such a state but for the level itself, the probe and the count of draws. -/
theorem invariant_atReset {p : Params} {nv rxStorage txStorage : Memory} (unspecified : Settings) (hp : p.ok = true)
    (hnv : Memory.wf nv = true ∧ Memory.within nvBytes nv = true)
    (hrx : Memory.wf rxStorage = true ∧ Memory.within p.rxCap rxStorage = true)
    (htx : Memory.wf txStorage = true ∧ Memory.within p.txCap txStorage = true) :
    Invariant (atReset p nv unspecified rxStorage txStorage) := by
  have hb := paramBounds_of_ok hp
  have hrx0 : 0 < p.rxCap := Nat.lt_of_lt_of_le (by decide) hb.rxLower
  have htx0 : 0 < p.txCap := Nat.lt_of_lt_of_le (by decide) hb.txLower
  have hchan : ∀ c : BitVec 2, State.reset.chan c = Channel.zero := by decide
  exact
    { params := hp
      rx := ringOk_of_storage hrx0 hrx.1 hrx.2
      tx := ringOk_of_storage htx0 htx.1 htx.2
      nvCanonical := hnv.1
      nvInside := hnv.2
      raw := fun c => by
        have hraw : ((atReset p nv unspecified rxStorage txStorage).chan c).rawSample = 0 :=
          congrArg Channel.rawSample (hchan c)
        rw [hraw]
        exact Nat.two_pow_pos _
      latch := fun _ h => nomatch h
      fraction := hb.fractPos
      mask := ⟨fun _ h => (nomatch h), fun _ => rfl⟩
      asserted := fun h => absurd rfl h
      pulse := fun h => nomatch h
      booting := fun _ => ⟨rfl, rfl⟩
      held := fun h => absurd rfl h
      resting := fun _ => rfl
      snapshot := fun _ _ h => nomatch h
      building := fun _ h => nomatch h
      settling := fun h => nomatch h }

/-- Settles O43: the reset state is the state at a release of `rst` with nothing stored anywhere. -/
theorem resetKeepsTheInvariant : Obligations.ResetKeepsTheInvariant :=
  invariant_atReset (p := Params.default) Settings.zero rfl ⟨rfl, rfl⟩ ⟨rfl, rfl⟩ ⟨rfl, rfl⟩

/-- Free ring storage is canonical and inside its byte space. -/
theorem freeRing_storage_ok {cap : Nat} (n : Nat) (transmit : Bool) (h0 : 0 < cap) :
    Memory.wf (freeRing cap n transmit).storage = true ∧ Memory.within cap (freeRing cap n transmit).storage = true :=
  ⟨writeRun_wf cap [] 0 _ rfl, writeRun_within cap [] 0 _ h0 rfl⟩

section
variable {s t : State}

/-! ## Levels and events -/

/-- The invariant reads neither the inputs, nor the levels, nor the model's counters and traces. -/
theorem Invariant.environment (h : Invariant s) (rst probe : Bool) (inputs : List Input) (n : Nat) :
    Invariant { s with rst := rst, probeActive := probe, inputs := inputs, draws := n } :=
  { h with held := fun hm => { h.held hm with } }

/-- Asserting `rst` keeps the invariant (R230). -/
theorem Invariant.holdReset (h : Invariant s) : Invariant (holdReset s) := by
  have hb := paramBounds_of_ok h.params
  have hrx0 : 0 < s.params.rxCap := Nat.lt_of_lt_of_le (by decide) hb.rxLower
  have htx0 : 0 < s.params.txCap := Nat.lt_of_lt_of_le (by decide) hb.txLower
  exact (invariant_atReset (freeSettings s.draws) h.params ⟨h.nvCanonical, h.nvInside⟩
    (freeRing_storage_ok s.draws false hrx0) (freeRing_storage_ok s.draws true htx0)).environment
      true s.probeActive s.inputs (s.draws + 1)

/-- A tick that arrives keeps the invariant. -/
theorem Invariant.pendTick (h : Invariant s) (pend : Bool) : Invariant { s with pendTick := pend } :=
  { h with held := fun hm => { h.held hm with } }

/-- A latched count in range keeps the invariant, and so does no latched count (R11). -/
theorem Invariant.pendConv (h : Invariant s) {latch : Option Half}
    (hl : ∀ raw ∈ latch, raw.toNat < 2 ^ s.params.adcBits) : Invariant { s with pendConv := latch } :=
  { h with latch := hl, held := fun hm => { h.held hm with } }

/-- A bus event latched or taken keeps the invariant. -/
theorem Invariant.pendBus (h : Invariant s) (latch : Option BusEvent) (n : Nat) :
    Invariant { s with pendBus := latch, draws := n } :=
  { h with held := fun hm => { h.held hm with } }

/-! ## Handlers -/

/-- The fraction stays below `FRACT_MAX` across a tick (R26, R150). -/
theorem clockTick_fraction_lt (hp : ParamBounds s.params) (hf : s.clock.microFraction.toNat < s.params.fractMax) :
    (clockTick s).clock.microFraction.toNat < s.params.fractMax := by
  have hinc := hp.tickFract
  have hmax := hp.fractUpper
  simp only [clockTick, BitVec.toNat_ofNat, decide_eq_true_eq]
  split <;> omega

theorem Invariant.serveTick (h : Invariant s) : Invariant (serveTick s) := by
  rw [serveTick_eq]
  exact { h with
    fraction := clockTick_fraction_lt (paramBounds_of_ok h.params) h.fraction
    held := fun hm => { h.held hm with } }

/-- A conversion with a count in range keeps the invariant (R11, R13). -/
theorem Invariant.convComplete (h : Invariant s) {raw : Half} (hraw : raw.toNat < 2 ^ s.params.adcBits) :
    Invariant (convComplete raw s) := by
  have hsamples : ∀ c, ((Machine.convComplete raw s).chan c).rawSample.toNat < 2 ^ s.params.adcBits := by
    intro c
    rw [rawSample_convComplete]
    split
    · exact hraw
    · exact h.raw c
  rw [(convComplete_frame raw s).1]
  exact { h with raw := hsamples, held := fun hm => { h.held hm with } }

theorem Invariant.serveConv (h : Invariant s) : Invariant (serveConv s) := by
  unfold Machine.serveConv
  split
  next raw hlatch =>
    exact (h.pendConv (latch := none) (fun _ hn => nomatch hn)).convComplete (h.latch raw hlatch)
  next => exact h

/-- A byte received keeps the invariant: it never shortens what the ring holds, so a frame found stays whole (R99). -/
theorem Invariant.busReceive (h : Invariant s) (b : Byte) : Invariant (busReceive b s) := by
  have hb := paramBounds_of_ok h.params
  obtain he | ⟨q, hq, he⟩ := busReceive_cases b s
  · rwa [he]
  · rw [he]
    have hcount := count_enqueue h.rx hb.rxUpper hq
    exact { h with
      rx := ringOk_enqueue h.rx hb.rxUpper hq
      held := fun hm => { h.held hm with
        buffered := Nat.le_trans (h.held hm).buffered (hcount ▸ Nat.le_succ _) } }

theorem Invariant.busTransmit (h : Invariant s) : Invariant (busTransmit s) := by
  have hb := paramBounds_of_ok h.params
  obtain he | ⟨b, q, hq, he⟩ := busTransmit_cases s
  · rw [he]
    exact { h with held := fun hm => { h.held hm with } }
  · rw [he]
    exact { h with tx := ringOk_dequeue h.tx hb.txUpper hq, held := fun hm => { h.held hm with } }

theorem Invariant.busStep (h : Invariant s) (e : BusEvent) : Invariant (busStep e s) := by
  cases e with
  | rx b => exact h.busReceive b
  | txreq => exact h.busTransmit
  | buserr => exact { h with held := fun hm => { h.held hm with } }

theorem Invariant.tryBus (h : Invariant s) : Invariant (tryBus s) := by
  obtain ⟨n, he | ⟨e, -, he⟩⟩ := tryBus_cases s
  · rw [he]
    exact h.pendBus s.pendBus n
  · rw [he]
    exact (h.pendBus none n).busStep e

/-! ## The main loop -/

/-- The interrupts are unmasked once boot is over (R50). -/
theorem Invariant.unmasked (h : Invariant s) (hb : s.boot = .done) : s.intMask = false := by
  cases hm : s.intMask with
  | false => rfl
  | true => exact absurd hb (h.mask.1 hm)

/-- With boot over and the interrupts unmasked, the mask is as the invariant says. -/
theorem mask_iff_of_done (hb : s.boot = .done) (hm : s.intMask = false) : s.intMask = true ↔ s.boot ≠ .done := by
  simp [hb, hm]

/-- While a frame is in progress the output is high only in the state Asserted, since the phase is Scan (R25). -/
theorem Invariant.no_zero_pulse (h : Invariant s) (hp : s.phase = .scan) (hout : s.trigOut = true) :
    s.debounce.counter ≠ 0 := by
  intro hc
  have hphase := h.pulse hout hc
  rw [hp] at hphase
  cases hphase

/-- The removal may be made the next micro-step of a frame at any time (R99). -/
theorem Invariant.micro_remove (h : Invariant s) (hm : s.micro ≠ .phaseStep)
    (hb : s.boot = .done) : Invariant { s with micro := .remove } :=
  { h with
    booting := fun hd => absurd hb hd
    held := fun _ => { h.held hm with }
    resting := fun hr => nomatch hr
    snapshot := fun _ _ hs => nomatch hs
    building := fun _ hr => nomatch hr
    settling := fun _ _ => rfl }

/-- Whatever a row does within its frame keeps the invariant, from the point where the removal is next (R100, R190). -/
theorem ExecFrame.invariant (he : ExecFrame s t) (h : Invariant s) (hb : s.boot = .done) (hm : s.micro = .remove)
    (hidle : s.mainBusy = false) : Invariant t := by
  have hbounds := paramBounds_of_ok h.params
  have hframe : FrameHeld s := h.held (by rw [hm]; exact fun hr => nomatch hr)
  have htx : RingOk s.params.txCap t.tx := by
    obtain htx | ⟨bytes, htx⟩ := he.tx
    · exact htx ▸ h.tx
    · exact ringOk_enqueueAll h.tx hbounds.txUpper htx
  have hnv : Memory.wf t.nv = true ∧ Memory.within nvBytes t.nv = true := by
    obtain hnv | ⟨block, hnv⟩ := he.nv
    · exact hnv ▸ ⟨h.nvCanonical, h.nvInside⟩
    · exact hnv ▸ ⟨writeRun_wf nvBytes [] 0 block rfl, writeRun_within nvBytes [] 0 block (by decide) rfl⟩
  have hmask : t.intMask = false := by
    obtain hmask | hmask := he.mask
    · exact hmask.trans (h.unmasked hb)
    · exact hmask
  have hmicro : t.micro ≠ .phaseStep := by
    obtain hr | ⟨kind, v, hr⟩ | ⟨r, hr, -⟩ := he.micro <;> simp [hr, hm]
  have hsnapshot : ∀ kind taken, t.micro = .snapshot kind taken → 1 ≤ taken.length ∧ taken.length ≤ 3 := by
    intro kind taken ht
    obtain hr | ⟨kind', v, hr⟩ | ⟨r, hr, -⟩ := he.micro
    · simp [hr, hm] at ht
    · rw [hr] at ht
      cases ht
      simp
    · simp [hr] at ht
  have hbuilding : ∀ response, t.micro = .build response → response.isRequest = false := by
    intro response ht
    obtain hr | ⟨kind', v, hr⟩ | ⟨r, hr, hresponse⟩ := he.micro
    · simp [hr, hm] at ht
    · simp [hr] at ht
    · rw [hr] at ht
      cases ht
      exact hresponse
  have hsettling : t.mainBusy = true → t.micro = .remove := by
    intro ht
    obtain hr | hr := he.busy
    · simp [hr, hidle] at ht
    · exact hr.trans hm
  have hraw : ∀ c, (t.chan c).rawSample.toNat < 2 ^ s.params.adcBits := fun c => by
    rw [he.raw c]
    exact h.raw c
  rw [he.frame]
  exact { h with
    tx := htx
    nvCanonical := hnv.1
    nvInside := hnv.2
    raw := hraw
    mask := mask_iff_of_done (s := { s with intMask := t.intMask }) hb hmask
    booting := fun hd => absurd hb hd
    held := fun _ => { hframe with }
    resting := fun hr => absurd hr hmicro
    snapshot := hsnapshot
    building := hbuilding
    settling := fun ht _ => hsettling ht }

/-- A step of boot that is not the last keeps the invariant, with the settings, the persistent block and a settle delay as it
likes (R231 to R234). -/
theorem Invariant.bootMove (h : Invariant s) (hboot : s.boot ≠ .done) {next : BootStep} (hnext : next ≠ .done)
    {nv : Memory} (hw : Memory.wf nv = true) (hi : Memory.within nvBytes nv = true) (x : Settings) (busy : Bool) :
    Invariant { s with settings := x, nv := nv, mainBusy := busy, boot := next } :=
  { h with
    nvCanonical := hw
    nvInside := hi
    mask := iff_of_true (h.mask.2 hboot) hnext
    booting := fun _ => h.booting hboot
    held := fun hm => absurd (h.booting hboot).2 hm
    settling := fun _ hd => absurd hd hnext }

/-- Boot step B2 keeps the invariant, with a valid block and without one (R158, R233). -/
theorem Invariant.settingsLoad (h : Invariant s) (hboot : s.boot ≠ .done) :
    Invariant { settingsLoad s with boot := .b3 } := by
  have hnext : BootStep.b3 ≠ .done := by decide
  obtain ⟨-, he⟩ | ⟨-, he⟩ := settingsLoad_cases s
  · rw [he]
    exact h.bootMove hboot hnext h.nvCanonical h.nvInside _ s.mainBusy
  · have hw := writeRun_wf nvBytes [] 0 (packSettings (defaultSettings s.params)) rfl
    have hi := writeRun_within nvBytes [] 0 (packSettings (defaultSettings s.params)) (by decide) rfl
    rw [he]
    generalize Memory.writeRun nvBytes [] 0 (packSettings (defaultSettings s.params)) = nv at hw hi ⊢
    exact h.bootMove hboot hnext hw hi _ true

/-- A restart of the calibration keeps the invariant (R122). -/
theorem Invariant.restartCalibration (h : Invariant s) : Invariant (restartCalibration s) :=
  { h with
    raw := fun c => by
      have hraw := congrArg Channel.rawSample (chan_restartCalibration s c)
      exact hraw ▸ h.raw c
    held := fun hm => { h.held hm with } }

/-- A Scan phase that ends without a frame keeps the invariant, whatever it has dropped (R94 to R97). -/
theorem Invariant.scanEnd (h : Invariant s) (hb : s.boot = .done) (hp : s.phase = .scan) {q : Ring}
    (hq : RingOk s.params.rxCap q) (hm : s.micro = .phaseStep) : Invariant { s with rx := q, phase := .trigger } :=
  { h with
    rx := hq
    pulse := fun hout hc => absurd hc (h.no_zero_pulse hp hout)
    booting := fun hd => absurd hb hd
    held := fun hr => absurd hm hr }

/-- The Scan phase keeps the invariant: a frame it finds is whole behind the noise (R94 to R99). -/
theorem Invariant.scan (h : Invariant s) (hb : s.boot = .done) (hm : s.micro = .phaseStep) (hp : s.phase = .scan)
    (hidle : s.mainBusy = false) (hs : scanFrame s = .next t) : Invariant t := by
  have hcap := (paramBounds_of_ok h.params).rxUpper
  obtain ⟨q, hq, hcases⟩ := scanFrame_eq_next hs
  have hqok := ringOk_advance h.rx hcap hq
  obtain ⟨op, payload, hparse, rfl⟩ | ⟨_, -, ⟨-, rfl⟩ | ⟨-, q', hq', rfl⟩⟩ := hcases
  · have hwhole : payload.length + 7 ≤ q.count s.params.rxCap := by
      rw [count_advance h.rx hcap hq, ← rxHeld_length, ← List.length_drop]
      exact parseFrame_length_le hparse
    exact { h with
      rx := hqok
      booting := fun hd => absurd hb hd
      held := fun _ => ⟨hp, Nat.le_add_left 7 _, hwhole⟩
      resting := fun hr => nomatch hr
      snapshot := fun _ _ hr => nomatch hr
      building := fun _ hr => nomatch hr
      settling := fun hbusy => absurd hbusy (by simp [hidle]) }
  · exact h.scanEnd hb hp hqok hm
  · exact h.scanEnd hb hp (ringOk_advance hqok hcap hq') hm

/-- The Trigger phase keeps the invariant: a fire action raises the output until the next Debounce phase (R134, R139). -/
theorem Invariant.triggerEvaluate (h : Invariant s) (hb : s.boot = .done) (hm : s.micro = .phaseStep) :
    Invariant (triggerEvaluate s) := by
  obtain he | he := triggerEvaluate_cases s
  · rw [he]
    exact { h with
      pulse := fun _ _ => rfl
      booting := fun hd => absurd hb hd
      held := fun hr => absurd hm hr }
  · rw [he]
    exact { h with
      mask := mask_iff_of_done (s := { s with intMask := false }) hb rfl
      asserted := fun _ => rfl
      pulse := fun _ _ => rfl
      booting := fun hd => absurd hb hd
      held := fun hr => absurd hm hr }

/-- The Debounce phase keeps the invariant: a pulse of length zero has expired, so in Idle the output falls (R138, R139). -/
theorem Invariant.debounceCheck (h : Invariant s) (hb : s.boot = .done) (hm : s.micro = .phaseStep) :
    Invariant (debounceCheck s) := by
  have hmask := mask_iff_of_done (s := { s with intMask := false }) hb rfl
  obtain ⟨-, he⟩ | ⟨hlive, he⟩ := debounceCheck_cases s
  · rw [he]
    exact { h with
      mask := hmask
      asserted := fun hc => absurd rfl hc
      pulse := fun hout => nomatch hout
      booting := fun hd => absurd hb hd
      held := fun hr => absurd hm hr }
  · have hcounter : s.debounce.counter ≠ 0 := fun hc => by
      simp [debounceExpired_of_counter_eq_zero hc] at hlive
    rw [he]
    exact { h with
      mask := hmask
      pulse := fun _ hc => absurd hc hcounter
      booting := fun hd => absurd hb hd
      held := fun hr => absurd hm hr }

/-- A further snapshot keeps the invariant: it takes at most a third value, and the fourth goes to the frame builder (R49). -/
theorem Invariant.snapshotStep (h : Invariant s) (hb : s.boot = .done) (hidle : s.mainBusy = false) {kind : SnapKind}
    {taken : List Half} (hm : s.micro = .snapshot kind taken) (hs : snapshotStep kind taken s = .next t) :
    Invariant t := by
  have hframe : FrameHeld s := h.held (by simp [hm])
  obtain ⟨hfirst, hlast⟩ := h.snapshot kind taken hm
  obtain ⟨m, rfl, ⟨r, rfl, hr⟩ | ⟨v, rfl, hmore⟩⟩ := snapshotStep_eq_next hlast hs
  · exact { h with
      mask := mask_iff_of_done (s := { s with intMask := false }) hb rfl
      booting := fun hd => absurd hb hd
      held := fun _ => { hframe with }
      resting := fun hr => nomatch hr
      snapshot := fun _ _ hr => nomatch hr
      building := fun _ he => MicroStep.build.inj he ▸ hr
      settling := fun hbusy => absurd hbusy (by simp [hidle]) }
  · exact { h with
      mask := mask_iff_of_done (s := { s with intMask := false }) hb rfl
      booting := fun hd => absurd hb hd
      held := fun _ => { hframe with }
      resting := fun hr => nomatch hr
      snapshot := fun _ _ he => by
        obtain ⟨-, rfl⟩ := MicroStep.snapshot.inj he
        simp only [List.length_append, List.length_singleton]
        omega
      building := fun _ hr => nomatch hr
      settling := fun hbusy => absurd hbusy (by simp [hidle]) }

/-- The removal of a frame keeps the invariant (R100). -/
theorem Invariant.removeFrame (h : Invariant s) (hb : s.boot = .done) (hidle : s.mainBusy = false)
    (hm : s.micro = .remove) (hs : removeFrame s = .next t) : Invariant t := by
  have hframe : FrameHeld s := h.held (by simp [hm])
  obtain ⟨q, hq, rfl⟩ := removeFrame_eq_next hs
  exact { h with
    rx := ringOk_advance h.rx (paramBounds_of_ok h.params).rxUpper hq
    pulse := fun hout hc => absurd hc (h.no_zero_pulse hframe.phase hout)
    booting := fun hd => absurd hb hd
    held := fun hr => absurd rfl hr
    resting := fun _ => rfl
    snapshot := fun _ _ hr => nomatch hr
    building := fun _ hr => nomatch hr
    settling := fun hbusy => absurd hbusy (by simp [hidle]) }

/-- Every step of `Main` keeps the invariant. -/
theorem MainMove.invariant (hmove : MainMove s t) (h : Invariant s) (hidle : s.mainBusy = false) : Invariant t := by
  cases hmove with
  | b1 hb => exact h.bootMove (by simp [hb]) (by decide) h.nvCanonical h.nvInside s.settings s.mainBusy
  | b2 hb => exact h.settingsLoad (by simp [hb])
  | b3 hb =>
    exact h.restartCalibration.bootMove (show s.boot ≠ .done by simp [hb]) (by decide) h.nvCanonical h.nvInside
      s.settings s.mainBusy
  | b4 hb =>
    have hboot : s.boot ≠ .done := by simp [hb]
    exact { h with
      mask := by simp
      booting := fun hd => absurd rfl hd
      held := fun hm => absurd (h.booting hboot).2 hm
      settling := fun hbusy => absurd hbusy (by simp [hidle]) }
  | scan hb hm hp hs => exact h.scan hb hm hp hidle hs
  | trigger hb hm => exact h.triggerEvaluate hb hm
  | debounce hb hm => exact h.debounceCheck hb hm
  | dispatch hb hm hs =>
    exact (execFrame_of_dispatch hs).invariant (h.micro_remove (by simp [hm]) hb) hb rfl hidle
  | snapshot hb hm hs => exact h.snapshotStep hb hidle hm hs
  | build hb hm hs =>
    exact (execFrame_of_exec hs).invariant (h.micro_remove (by simp [hm]) hb) hb rfl hidle
  | remove hb hm hs => exact h.removeFrame hb hidle hm hs

/-! ## Any step -/

/-- Letting any agent step keeps the invariant. -/
theorem Invariant.runAgent (h : Invariant s) {a : Agent} (hs : runAgent a s = .next t) : Invariant t := by
  obtain rfl | ⟨hen, hs⟩ := runAgent_eq_next hs
  · exact h
  cases a with
  | tick =>
    obtain rfl := Host.Outcome.next.inj hs
    exact h.serveTick
  | conv =>
    obtain rfl := Host.Outcome.next.inj hs
    exact h.serveConv
  | bus =>
    obtain rfl := Host.Outcome.next.inj hs
    exact h.tryBus
  | main =>
    have hidle : s.mainBusy = false := by
      simp only [enabled, Bool.and_eq_true, Bool.not_eq_true'] at hen
      exact hen.2
    exact (mainMove_of_mainStep hs).invariant h hidle
  | settle =>
    obtain rfl := Host.Outcome.next.inj hs
    exact { h with
      held := fun hm => { h.held hm with }
      settling := fun hbusy => nomatch hbusy }

/-- What one input does keeps the invariant. -/
theorem Invariant.applyInput (h : Invariant s) {i : Input} (hs : applyInput i s = .next t) : Invariant t := by
  cases i with
  | tick =>
    obtain rfl | rfl := arriveTick_eq_next hs
    · exact h
    · exact h.pendTick true
  | conv raw =>
    obtain rfl | ⟨hraw, rfl⟩ := arriveConv_eq_next hs
    · exact h
    · exact h.pendConv (latch := some raw) (fun x hx => Option.some.inj hx ▸ hraw)
  | bus e =>
    obtain ⟨latch, n, rfl⟩ := arriveBus_eq_next hs
    exact h.pendBus latch n
  | probe active =>
    obtain rfl := Host.Outcome.next.inj hs
    exact h.environment s.rst active s.inputs s.draws
  | assertReset =>
    obtain rfl := Host.Outcome.next.inj hs
    split
    · exact h
    · exact h.holdReset
  | releaseReset =>
    obtain rfl := Host.Outcome.next.inj hs
    exact h.environment false s.probeActive s.inputs s.draws
  | run a => exact h.runAgent hs

end

/-- Settles O44: a step is an input or an agent's step, after a draw or without one, and each of these keeps the
invariant. -/
theorem stepKeepsTheInvariant : Obligations.StepKeepsTheInvariant := by
  intro s t h hs
  obtain ⟨i, rest, -, hi⟩ | ⟨a, n, ha⟩ := step_eq_next hs
  · exact (h.environment s.rst s.probeActive rest s.draws).applyInput hi
  · exact (h.environment s.rst s.probeActive s.inputs n).runAgent ha

end Sys2Proof.Machine

/-! PROOF. What only one step may do: clear the flag (O34), end a pulse (O35), move the clock (O37), clear the overflow bit
(O46). Each follows from `runAgent_keepsTrigger`. -/
namespace Sys2Proof.Machine

theorem triggerEvaluate_clock (s : State) : (triggerEvaluate s).clock = s.clock := by
  obtain he | he := triggerEvaluate_cases s
  · rw [he]
  · rw [he]

theorem debounceCheck_clock (s : State) : (debounceCheck s).clock = s.clock := by
  obtain ⟨-, he⟩ | ⟨-, he⟩ := debounceCheck_cases s
  · rw [he]
  · rw [he]

/-- The Debounce phase leaves the flag and the overflow bit alone. -/
theorem debounceCheck_flags (s : State) :
    (debounceCheck s).triggered = s.triggered ∧ (debounceCheck s).txOverflow = s.txOverflow := by
  obtain ⟨-, he⟩ | ⟨-, he⟩ := debounceCheck_cases s
  · rw [he]
    exact ⟨rfl, rfl⟩
  · rw [he]
    exact ⟨rfl, rfl⟩

theorem triggerEvaluate_txOverflow (s : State) : (triggerEvaluate s).txOverflow = s.txOverflow := by
  obtain he | he := triggerEvaluate_cases s
  · rw [he]
  · rw [he]

/-- Settles O34: of the steps that do not keep the trigger registers only the Trigger phase writes the flag, and only when it
fires. -/
theorem onlyFiringClearsTheFlag : Obligations.OnlyFiringClearsTheFlag := by
  intro a s t h hs ht
  obtain hk | ⟨-, rfl⟩ | ⟨ha, hb, hm, ⟨hp, rfl⟩ | ⟨-, rfl⟩⟩ := runAgent_keepsTrigger h
  · simp [hk.flag hs] at ht
  · simp [serveTick_eq, hs] at ht
  · obtain he | he := triggerEvaluate_cases s
    · simp [he, hs] at ht
    · exact ⟨ha, hb, hm, hp, by rw [he], by rw [he]⟩
  · simp [(debounceCheck_flags s).1, hs] at ht

/-- Settles O35: of the steps that do not keep the trigger registers only the Debounce phase lowers the output, and only at
expiry; the counter falls to zero there, or in the Trigger phase when a fire action loads a hold length of zero. -/
theorem outputFallsOnlyOnExpiry : Obligations.OutputFallsOnlyOnExpiry := by
  intro a s t h
  obtain hk | ⟨-, rfl⟩ | ⟨ha, hb, hm, ⟨hp, rfl⟩ | ⟨hp, rfl⟩⟩ := runAgent_keepsTrigger h
  · exact ⟨fun hs ht => by simp [hk.out, hs] at ht, fun hs ht => absurd (hk.debounce ▸ ht) hs⟩
  · exact ⟨fun hs ht => by simp [serveTick_eq, hs] at ht, fun hs ht => absurd ht hs⟩
  · obtain he | he := triggerEvaluate_cases s
    · rw [he]
      exact ⟨fun hs ht => by simp [hs] at ht, fun hs ht => absurd ht hs⟩
    · rw [he]
      exact ⟨fun _ ht => (nomatch ht), fun _ ht => .inr ⟨ha, hb, hm, hp, rfl, ht, rfl⟩⟩
  · obtain ⟨hexpired, he⟩ | ⟨-, he⟩ := debounceCheck_cases s
    · rw [he]
      exact ⟨fun _ _ => ⟨ha, hb, hm, hp, hexpired, rfl, rfl⟩, fun _ _ => .inl ⟨ha, hb, hm, hp, hexpired, rfl, rfl⟩⟩
    · rw [he]
      exact ⟨fun hs ht => by simp [hs] at ht, fun hs ht => absurd ht hs⟩

/-- Settles O37: of the steps that do not keep the trigger registers only the tick writes the clock. -/
theorem onlyTicksMoveTheClock : Obligations.OnlyTicksMoveTheClock := by
  intro a s t ha h
  obtain hk | ⟨htick, -⟩ | ⟨-, -, -, ⟨-, rfl⟩ | ⟨-, rfl⟩⟩ := runAgent_keepsTrigger h
  · exact hk.clock
  · exact absurd htick ha
  · exact triggerEvaluate_clock s
  · exact debounceCheck_clock s

/-- No agent clears the overflow bit (R18). -/
theorem runAgent_keeps_txOverflow {a : Agent} {s t : State} (h : runAgent a s = .next t) (hs : s.txOverflow = true) :
    t.txOverflow = true := by
  obtain hk | ⟨-, rfl⟩ | ⟨-, -, -, ⟨-, rfl⟩ | ⟨-, rfl⟩⟩ := runAgent_keepsTrigger h
  · exact hk.overflow hs
  · exact hs
  · exact (triggerEvaluate_txOverflow s).trans hs
  · exact (debounceCheck_flags s).2.trans hs

/-- No input clears the overflow bit but an assertion of `rst` that was released (R18, R230). -/
theorem applyInput_keeps_txOverflow {i : Input} {s t : State} (h : applyInput i s = .next t) (hs : s.txOverflow = true) :
    t.txOverflow = true ∨ i = .assertReset ∧ s.rst = false ∧ t.rst = true := by
  cases i with
  | tick => obtain rfl | rfl := arriveTick_eq_next h <;> exact .inl hs
  | conv raw => obtain rfl | ⟨-, rfl⟩ := arriveConv_eq_next h <;> exact .inl hs
  | bus e =>
    obtain ⟨latch, n, rfl⟩ := arriveBus_eq_next h
    exact .inl hs
  | probe active =>
    obtain rfl := Host.Outcome.next.inj h
    exact .inl hs
  | assertReset =>
    obtain rfl := Host.Outcome.next.inj h
    cases hr : s.rst with
    | true => exact .inl (by simp [hs])
    | false => exact .inr ⟨rfl, rfl, by simp [holdReset]⟩
  | releaseReset =>
    obtain rfl := Host.Outcome.next.inj h
    exact .inl hs
  | run a => exact .inl (runAgent_keeps_txOverflow h hs)

/-- Settles O46: a step is an input or an agent's step, and no other input clears the bit. -/
theorem onlyResetClearsTxOverflow : Obligations.OnlyResetClearsTxOverflow := by
  intro s t h hs ht
  obtain ⟨i, rest, hi, h⟩ | ⟨a, n, h⟩ := step_eq_next h
  · obtain hkept | ⟨rfl, hreleased, hasserted⟩ := applyInput_keeps_txOverflow h hs
    · simp [hkept] at ht
    · exact ⟨hreleased, hasserted, rest, hi⟩
  · simp [runAgent_keeps_txOverflow h hs] at ht

end Sys2Proof.Machine

/-! PROOF. `Main` and the schedule: the settle delay and the removal of a frame (O57), how a step is chosen and runs the decoded
instruction (O12). -/
namespace Sys2Proof.Machine

/-! ## The settle delay and the removal -/

/-- The bytes held after the scanner's `advance` are those held before without the oldest (R86). -/
theorem rxHeld_advance {s t : State} {n : Nat} (hrx : RingOk s.params.rxCap s.rx) (hcap : s.params.rxCap ≤ 256)
    (hn : n ≤ s.rx.count s.params.rxCap) (hp : t.params = s.params)
    (ht : t.rx = { s.rx with tail := Ring.moveIndex s.params.rxCap s.rx.tail n }) : t.rxHeld = s.rxHeld.drop n := by
  rw [State.rxHeld, State.rxHeld, hp, ht]
  exact held_advance hrx hcap (advance_of_le hn)

/-- Settles O57: `Main` is not enabled while `mainBusy` is set, the end of the delay is; and the frame to be removed is in the
ring, so that the removal completes. -/
theorem settleDelayThenRemoval : Obligations.SettleDelayThenRemoval := by
  intro s h hrst hboot hmicro
  have hframe : FrameHeld s := h.held (by simp [hmicro])
  refine ⟨fun hbusy => ⟨?_, ?_⟩, fun hidle => ?_⟩
  · exact runAgent_disabled (by simp [enabled, hbusy])
  · exact runAgent_enabled (by simp [enabled, hrst, hbusy])
  · have hstep : runAgent .main s = removeFrame s := by
      rw [runAgent_main ⟨hrst, hboot, hidle⟩]
      simp only [mainStep, hboot, hmicro]
    refine ⟨{ s with
      rx := { s.rx with tail := Ring.moveIndex s.params.rxCap s.rx.tail s.scanLen }
      phase := .trigger
      micro := .phaseStep
      scanLen := 0 }, ?_, ?_, rfl, rfl, rfl⟩
    · rw [hstep, removeFrame, advanceRx_of_le hframe.buffered]
      rfl
    · exact rxHeld_advance h.rx (paramBounds_of_ok h.params).rxUpper hframe.buffered rfl rfl

/-! ## The step of the machine -/

/-- With a build within R4 a step whose next input is there applies it (R10, R11). -/
theorem step_input {s : State} {i : Input} {rest : List Input} (hp : s.params.ok = true) (hi : s.inputs = i :: rest) :
    step s = applyInput i { s with inputs := rest } := by
  simp only [step, stepOnce, hp, if_true, hi]

/-- With a build within R4 and no input left a step follows the schedule (R212). -/
theorem step_schedule {s : State} (hp : s.params.ok = true) (hi : s.inputs = []) : step s = freeSchedule s := by
  simp only [step, stepOnce, hp, if_true, hi]

/-- With no input left and one agent enabled that agent steps (R212). -/
theorem step_alone {s : State} {a : Agent} (hp : s.params.ok = true) (hi : s.inputs = []) (ha : enabledAgents s = [a]) :
    step s = runAgent a s := by
  rw [step_schedule hp hi, freeSchedule, ha]

/-- No handler may run: each is masked or has nothing pending (R29, R50). -/
def HandlersQuiet (s : State) : Prop :=
  s.intMask = true ∨ (s.pendTick = false ∧ s.pendConv = none ∧ s.pendBus = none)

/-- With no handler to run, `Main` or the end of the settle delay is alone enabled (R31). -/
theorem enabledAgents_of_quiet {s : State} (hrst : s.rst = false) (hq : HandlersQuiet s) :
    enabledAgents s = [if s.mainBusy then .settle else .main] := by
  have htick : enabled .tick s = false := by
    obtain hm | ⟨ht, -, -⟩ := hq
    · simp [enabled, hm]
    · simp [enabled, ht]
  have hconv : enabled .conv s = false := by
    obtain hm | ⟨-, hc, -⟩ := hq
    · simp [enabled, hm]
    · simp [enabled, hc]
  have hbus : enabled .bus s = false := by
    obtain hm | ⟨-, -, hb⟩ := hq
    · simp [enabled, hm]
    · simp [enabled, hb]
  have hmain : enabled .main s = !s.mainBusy := by simp [enabled, hrst]
  have hsettle : enabled .settle s = s.mainBusy := by simp [enabled, hrst]
  cases hbusy : s.mainBusy with
  | true => simp [enabledAgents, htick, hconv, hbus, hmain, hsettle, hbusy]
  | false => simp [enabledAgents, htick, hconv, hbus, hmain, hsettle, hbusy]

/-- With no input and no handler to run, a step is `Main`'s, unless it is in the settle delay. -/
theorem step_main_alone {s : State} (hp : s.params.ok = true) (hi : s.inputs = []) (hrst : s.rst = false)
    (hq : HandlersQuiet s) (hidle : s.mainBusy = false) : step s = mainStep s := by
  have ha : enabledAgents s = [.main] := by simp [enabledAgents_of_quiet hrst hq, hidle]
  rw [step_alone hp hi ha, runAgent_enabled ((mem_enabledAgents .main s).1 (by simp [ha]))]
  rfl

/-- In the settle delay, with no input and no handler to run, a step is the end of the delay (log 10). -/
theorem step_settle_alone {s : State} (hp : s.params.ok = true) (hi : s.inputs = []) (hrst : s.rst = false)
    (hq : HandlersQuiet s) (hbusy : s.mainBusy = true) : step s = .next { s with mainBusy := false } := by
  have ha : enabledAgents s = [.settle] := by simp [enabledAgents_of_quiet hrst hq, hbusy]
  rw [step_alone hp hi ha, runAgent_enabled ((mem_enabledAgents .settle s).1 (by simp [ha]))]
  rfl

/-- The dispatcher on a frame that decodes runs the instruction decoded (R170): the bytes read in place are the opcode and the
payload of the frame. -/
theorem dispatchFrame_of_decode {s : State} {i : Instr} {len : Byte} (hd : decode s.rxHeld = .ok i)
    (hlen : s.rxHeld[5]? = some len) (hscan : s.scanLen = len.toNat + 5) :
    dispatchFrame s = exec i { s with micro := .remove } := by
  unfold decode at hd
  split at hd
  next op payload hparse =>
    obtain ⟨hop, len', hlen', -, hwhole, hpayload⟩ := parseFrame_eq_ok hparse
    obtain rfl : len' = len := Option.some.inj (hlen'.symm.trans hlen)
    have hcount : s.scanLen ≤ s.rx.count s.params.rxCap := by
      rw [hscan, ← rxHeld_length]
      exact hwhole
    have hopcode : frameOpcode s = op := by simp [frameOpcode, List.getD_eq_getElem?_getD, hop]
    have hwindow : framePayload s = payload := by
      rw [framePayload, hscan, hpayload, Nat.add_sub_add_right len'.toNat 5 2]
    simp only [dispatchFrame, hcount, if_true, hopcode, hwindow, hd]
  next => cases hd

/-- First clause of O12: a good frame behind the noise stays in the ring for the dispatcher (R99). -/
theorem scan_hands_frame_to_dispatcher {s : State} {op : Byte} {payload : List Byte} (h : Invariant s)
    (hready : MainReady s) (hphase : s.phase = .scan)
    (hparse : parseFrame (s.params.rxCap - 1) (s.rxHeld.drop (noiseLen s.rxHeld)) = .ok (op, payload)) :
    ∃ t, runAgent .main s = .next t ∧ t.rxHeld = s.rxHeld.drop (noiseLen s.rxHeld) ∧
      t.rx.head = s.rx.head ∧ t.rx.storage = s.rx.storage ∧
      t = { s with rx := t.rx, micro := .dispatch, scanLen := payload.length + 7 } := by
  have hstep : runAgent .main s = scanFrame s := by
    rw [runAgent_main hready.toMainRuns]
    simp only [mainStep, hready.boot, hready.between, phaseStep, hphase]
  have hnoise : noiseLen s.rxHeld ≤ s.rx.count s.params.rxCap := by simpa using noiseLen_le s.rxHeld
  exact ⟨_, hstep.trans (scanFrame_of_ok hparse),
    rxHeld_advance h.rx (paramBounds_of_ok h.params).rxUpper hnoise rfl rfl, rfl, rfl, rfl⟩

/-- Second clause of O12: when `Main` is scheduled at the dispatcher, the step is `exec` of the instruction decoded. -/
theorem step_dispatches {s : State} {i : Instr} {len : Byte} {later : List Input} (hp : s.params.ok = true)
    (hruns : MainRuns s) (hmicro : s.micro = .dispatch)
    (hschedule : s.inputs = .run .main :: later ∨
      (s.inputs = [] ∧ later = [] ∧ s.pendTick = false ∧ s.pendConv = none ∧ s.pendBus = none))
    (hd : decode s.rxHeld = .ok i) (hlen : s.rxHeld[5]? = some len) (hscan : s.scanLen = len.toNat + 5) :
    step s = exec i { s with inputs := later, micro := .remove } := by
  have hmain : ∀ inputs, mainStep { s with inputs := inputs } = exec i { s with inputs := inputs, micro := .remove } := by
    intro inputs
    have hdispatch : mainStep { s with inputs := inputs } = dispatchFrame { s with inputs := inputs } := by
      simp only [mainStep, hruns.boot, hmicro]
    rw [hdispatch]
    exact dispatchFrame_of_decode (s := { s with inputs := inputs }) hd hlen hscan
  obtain hi | ⟨hi, rfl, hquiet⟩ := hschedule
  · rw [step_input hp hi, ← hmain later]
    exact runAgent_main (s := { s with inputs := later }) ⟨hruns.rst, hruns.boot, hruns.idle⟩
  · have hsame : { s with inputs := [] } = s := by rw [← hi]
    rw [step_main_alone hp hi hruns.rst (.inr hquiet) hruns.idle, ← hmain [], hsame]

/-- Settles O12: the scanner, the dispatcher, and how a step is chosen in general. -/
theorem stepRunsTheDecodedInstruction : Obligations.StepRunsTheDecodedInstruction := by
  refine ⟨?_, ?_, ?_, ?_⟩
  · intro s op payload h hready hphase hparse
    exact scan_hands_frame_to_dispatcher h hready hphase hparse
  · intro s i len later hp hruns hmicro hschedule hd hlen hscan
    exact step_dispatches hp hruns hmicro hschedule hd hlen hscan
  · intro s hp
    refine ⟨fun later => ⟨?_, ?_, ?_, ?_, ?_⟩, fun hi => ?_⟩
    · exact fun a hi => step_input hp hi
    · exact fun hi => step_input hp hi
    · exact fun raw hi => step_input hp hi
    · exact fun e hi => step_input hp hi
    · exact fun active hi => step_input hp hi
    · rw [step_schedule hp hi]
      exact freeSchedule_cases s
  · intro s hp
    simp [step, stepOnce, hp]

end Sys2Proof.Machine

/-! PROOF. Reset and boot: what asserting and releasing `rst` does (O42), and boot from the release to the main loop (O41). -/
namespace Sys2Proof.Machine

/-! ## Reset -/

/-- Every channel register is zero while `rst` is asserted (R33). -/
theorem chan_holdReset (s : State) (c : BitVec 2) : (holdReset s).chan c = ⟨0, 0, 0, 0⟩ :=
  (show ∀ c : BitVec 2, State.reset.chan c = ⟨0, 0, 0, 0⟩ by decide) c

/-- An assertion of `rst` that was released resets the block (R230). -/
theorem step_assertReset {s : State} {rest : List Input} (hp : s.params.ok = true) (hrst : s.rst = false)
    (hi : s.inputs = .assertReset :: rest) : step s = .next (holdReset { s with inputs := rest }) := by
  rw [step_input hp hi]
  simp only [applyInput, hrst, Bool.false_eq_true, if_false]

/-- Asserting `rst` again changes nothing. -/
theorem step_assertReset_again {s : State} {rest : List Input} (hp : s.params.ok = true) (hrst : s.rst = true)
    (hi : s.inputs = .assertReset :: rest) : step s = .next { s with inputs := rest } := by
  rw [step_input hp hi]
  simp only [applyInput, hrst, if_true]

/-- Releasing `rst` changes nothing else. -/
theorem step_releaseReset {s : State} {rest : List Input} (hp : s.params.ok = true)
    (hi : s.inputs = .releaseReset :: rest) : step s = .next { s with rst := false, inputs := rest } :=
  step_input hp hi

/-- A run of one step more is a step and the run after it. -/
theorem run_succ_of_next {s t : State} (n : Nat) (h : step s = .next t) :
    Host.Core.run Sys2Proof.core (n + 1) s = Host.Core.run Sys2Proof.core n t := by
  have hcore : Sys2Proof.core.step s = .next t := h
  simp only [Host.Core.run, hcore]

/-- Settles O42: `holdReset` field by field; while `rst` is asserted no agent is enabled and every arrival is discarded; the
release leaves the state boot starts from. -/
theorem resetHoldsTheBlock : Obligations.ResetHoldsTheBlock := by
  refine ⟨?_, ?_, ?_, ?_⟩
  · intro s rest hp hrst hi
    refine ⟨_, step_assertReset hp hrst hi, rfl, rfl, rfl, chan_holdReset _, ?_⟩
    and_intros <;> rfl
  · intro s hrst
    refine ⟨fun a => runAgent_disabled (by simp [enabled, hrst]), ?_, fun raw => ?_, fun e => ?_⟩
    · simp [arriveTick, hrst]
    · simp [arriveConv, hrst]
    · simp [arriveBus, hrst]
  · intro s rest hp
    exact ⟨step_releaseReset hp, step_assertReset_again hp⟩
  · intro s later hp hrst hi
    refine ⟨{ holdReset { s with inputs := later } with rst := false }, ?_, rfl, rfl, rfl⟩
    rw [run_succ_of_next 1 (step_assertReset hp hrst hi)]
    exact run_succ_of_next 0 (step_releaseReset (s := holdReset { s with inputs := .releaseReset :: later }) hp rfl)

/-! ## Boot -/

/-- Boot B3 on cleared channels leaves them as they are. -/
theorem restartCalibration_of_cleared {s : State} (hch : s.ch = State.reset.ch) : restartCalibration s =
    { s with calCycle := 0, calRemaining := s.settings.calibrationSampleCount } := by
  have hcleared : (mapChannels (fun x => { x with centerline := f32Zero }) State.reset).ch = State.reset.ch := by decide
  have hmapped : (mapChannels (fun x => { x with centerline := f32Zero }) s).ch = s.ch := by
    simpa only [mapChannels, State.chan, hch] using hcleared
  simp only [restartCalibration]
  rw [← hmapped]
  rfl

/-- A block stored is read back whole (R57). -/
theorem nvRead_of_nv_eq {s : State} {block : List Byte} (hl : block.length = nvBytes)
    (hs : s.nv = Memory.writeRun nvBytes [] 0 block) : nvRead s = block := by
  have hread := readRun_writeRun nvBytes [] 0 block rfl (Nat.le_of_eq hl)
  rwa [hl, ← hs] at hread

/-- A packed block fills the persistent block (R44, R156). -/
theorem packSettings_length (x : Settings) : (packSettings x).length = nvBytes := rfl

/-- In boot no handler runs, so that a step is `Main`'s (R231). -/
structure Booting (s : State) : Prop where
  params : s.params.ok = true
  rst : s.rst = false
  inputs : s.inputs = []
  masked : s.intMask = true
  /-- Nothing has been sampled yet. -/
  cleared : s.ch = State.reset.ch

theorem Booting.step_main {s : State} (h : Booting s) (hidle : s.mainBusy = false) : step s = mainStep s :=
  step_main_alone h.params h.inputs h.rst (.inl h.masked) hidle

/-- B3 and B4 end boot with the calibration started (R234, R235). -/
theorem run_boot_end {s : State} (h : Booting s) (hb : s.boot = .b3) (hidle : s.mainBusy = false) :
    Host.Core.run Sys2Proof.core 2 s = .next { s with
      boot := .done
      intMask := false
      calCycle := 0
      calRemaining := s.settings.calibrationSampleCount } := by
  have hb3 : step s = .next { s with
      boot := .b4, calCycle := 0, calRemaining := s.settings.calibrationSampleCount } := by
    rw [h.step_main hidle]
    simp only [mainStep, hb, restartCalibration_of_cleared h.cleared]
  rw [run_succ_of_next 1 hb3]
  refine run_succ_of_next 0 ?_
  exact step_main_alone h.params h.inputs h.rst (.inl h.masked) hidle

/-- B1 and B2 (R232, R233). -/
theorem run_boot_begin {s : State} (h : Booting s) (hb : s.boot = .b1) (hidle : s.mainBusy = false) (n : Nat) :
    Host.Core.run Sys2Proof.core (n + 2) s =
      Host.Core.run Sys2Proof.core n { settingsLoad { s with boot := .b2 } with boot := .b3 } := by
  have hb1 : step s = .next { s with boot := .b2 } := by
    rw [h.step_main hidle]
    simp only [mainStep, hb]
  rw [run_succ_of_next (n + 1) hb1]
  refine run_succ_of_next n ?_
  exact step_main_alone h.params h.inputs h.rst (.inl h.masked) hidle

/-- Boot with a valid block takes four steps (R158). -/
theorem run_boot_of_valid {s : State} (h : Booting s) (hb : s.boot = .b1) (hidle : s.mainBusy = false)
    (hv : blockValid (nvRead s) = true) :
    Host.Core.run Sys2Proof.core 4 s = .next { s with
      boot := .done
      intMask := false
      settings := unpackSettings (nvRead s)
      calCycle := 0
      calRemaining := (unpackSettings (nvRead s)).calibrationSampleCount } := by
  have hload : settingsLoad { s with boot := .b2 } = { s with boot := .b2, settings := unpackSettings (nvRead s) } := by
    obtain ⟨-, he⟩ | ⟨hf, -⟩ := settingsLoad_cases { s with boot := .b2 }
    · exact he
    · exact absurd hv (ne_true_of_eq_false hf)
  refine (run_boot_begin h hb hidle 2).trans ?_
  rw [hload]
  exact run_boot_end ⟨h.params, h.rst, h.inputs, h.masked, h.cleared⟩ rfl hidle

/-- Boot without a valid block takes five steps: it stores the defaults and waits for the settle delay (R233, log 12). The
stored block stands behind an equation, so that the run is checked without evaluating it. -/
theorem run_boot_of_invalid {s : State} (h : Booting s) (hb : s.boot = .b1) (hidle : s.mainBusy = false)
    (hv : blockValid (nvRead s) = false) :
    ∃ nv, nv = Memory.writeRun nvBytes [] 0 (packSettings (defaultSettings s.params)) ∧
      Host.Core.run Sys2Proof.core 5 s = .next { s with
        boot := .done
        intMask := false
        mainBusy := false
        settings := defaultSettings s.params
        nv := nv
        calCycle := 0
        calRemaining := (defaultSettings s.params).calibrationSampleCount } := by
  obtain ⟨ht, -⟩ | ⟨-, hload⟩ := settingsLoad_cases { s with boot := .b2 }
  · exact absurd hv (ne_false_of_eq_true ht)
  refine ⟨_, rfl, (run_boot_begin h hb hidle 3).trans ?_⟩
  rw [hload]
  generalize Memory.writeRun nvBytes [] 0 _ = nv
  have hstored : Booting { s with
      boot := .b3, settings := defaultSettings s.params, nv := nv, mainBusy := true } :=
    ⟨h.params, h.rst, h.inputs, h.masked, h.cleared⟩
  refine (run_succ_of_next 2 (step_settle_alone hstored.params hstored.inputs hstored.rst (.inl hstored.masked) rfl)).trans ?_
  exact run_boot_end ⟨h.params, h.rst, h.inputs, h.masked, h.cleared⟩ rfl rfl

/-- Settles O41: the state at the release of `rst` is in boot with nothing sampled, whatever is stored and drawn. -/
theorem bootReachesTheMainLoop : Obligations.BootReachesTheMainLoop := by
  intro p nv unspecified rxStorage txStorage probe drawn hp s
  have hboot : Booting s := ⟨hp, rfl, rfl, rfl, rfl⟩
  refine ⟨fun hv => run_boot_of_valid hboot rfl rfl hv, fun hv => ?_⟩
  obtain ⟨stored, hstored, hrun⟩ := run_boot_of_invalid hboot rfl rfl hv
  exact ⟨_, hrun, nvRead_of_nv_eq (packSettings_length _) hstored, rfl⟩

end Sys2Proof.Machine

/-! PROOF. Arrivals, masking and the agents enabled (O22): what each arriving event does, said once (R29, R50, R230). -/
namespace Sys2Proof.Machine

section
variable {s : State}

/-- Who is enabled, by agent (R29, R31, R236): the model's Boolean, read off. -/
theorem enabled_tick_iff : enabled .tick s = true ↔ s.rst = false ∧ s.pendTick = true ∧ s.intMask = false := by
  simp [enabled]

theorem enabled_conv_iff : enabled .conv s = true ↔ s.rst = false ∧ s.pendConv ≠ none ∧ s.intMask = false := by
  simp [enabled, Option.isSome_iff_ne_none]

theorem enabled_bus_iff : enabled .bus s = true ↔ s.rst = false ∧ s.pendBus ≠ none ∧ s.intMask = false := by
  simp [enabled, Option.isSome_iff_ne_none]

theorem enabled_main_iff : enabled .main s = true ↔ s.rst = false ∧ s.mainBusy = false := by
  simp [enabled]

theorem enabled_settle_iff : enabled .settle s = true ↔ s.rst = false ∧ s.mainBusy = true := by
  simp [enabled]

/-- A handler let step while the interrupts are masked does nothing (R50). -/
theorem runAgent_masked {a : Agent} (hmask : s.intMask = true) (hmain : a ≠ .main) (hsettle : a ≠ .settle) :
    runAgent a s = .next s := by
  refine runAgent_disabled (Bool.eq_false_iff.2 fun he => ?_)
  obtain h | h | h := enabled_handler_unmasked he
  · exact hmain h
  · exact hsettle h
  · simp [hmask] at h

/-! ## Arrivals with `rst` released -/

/-- A tick with none pending is latched, masked or not (R29). -/
theorem arriveTick_latches (hrst : s.rst = false) (hpend : s.pendTick = false) :
    arriveTick s = .next { s with pendTick := true } := by
  simp [arriveTick, hrst, hpend]

/-- A second tick is outside the rules (R247, log 7). -/
theorem arriveTick_overrun (hrst : s.rst = false) (hpend : s.pendTick = true) :
    arriveTick s = .refused .eventOverrun := by
  simp [arriveTick, hrst, hpend]

/-- A count in range with none pending is latched, masked or not (R29). -/
theorem arriveConv_latches {raw : Half} (hrst : s.rst = false) (hraw : raw.toNat < 2 ^ s.params.adcBits)
    (hpend : s.pendConv = none) : arriveConv raw s = .next { s with pendConv := some raw } := by
  simp [arriveConv, hrst, hpend, Nat.not_le.2 hraw]

/-- A count out of range is outside the rules (R11, log 8). -/
theorem arriveConv_outOfRange {raw : Half} (hrst : s.rst = false) (hraw : 2 ^ s.params.adcBits ≤ raw.toNat) :
    arriveConv raw s = .refused .rawOutOfRange := by
  simp [arriveConv, hrst, hraw]

/-- A second conversion is outside the rules (R247, log 7). -/
theorem arriveConv_overrun {raw : Half} (hrst : s.rst = false) (hraw : raw.toNat < 2 ^ s.params.adcBits)
    (hpend : s.pendConv ≠ none) : arriveConv raw s = .refused .eventOverrun := by
  simp [arriveConv, hrst, Option.isSome_iff_ne_none.2 hpend, Nat.not_le.2 hraw]

/-- A bus event with none pending is latched, masked or not (R29). -/
theorem arriveBus_latches {e : BusEvent} (hrst : s.rst = false) (hpend : s.pendBus = none) :
    arriveBus e s = .next { s with pendBus := some e } := by
  simp [arriveBus, hrst, hpend]

/-- A second bus event is outside the rules while the bus is sound (R247, log 7). -/
theorem arriveBus_overrun {e old : BusEvent} (hrst : s.rst = false) (hpend : s.pendBus = some old)
    (hsound : s.busErr = false) : arriveBus e s = .refused .eventOverrun := by
  simp [arriveBus, hrst, hpend, hsound]

/-- After a bus-level error one of the two bus events stays latched, whatever the free value is (U5, log 9). -/
theorem arriveBus_after_error {e old : BusEvent} (hrst : s.rst = false) (hpend : s.pendBus = some old)
    (herr : s.busErr = true) :
    ∃ kept, (kept = e ∨ kept = old) ∧
      arriveBus e s = .next { s with pendBus := some kept, draws := s.draws + 1 } := by
  refine ⟨if Config.freeBool s.draws then e else old, ?_, by simp [arriveBus, hrst, hpend, herr]⟩
  split
  · exact .inl rfl
  · exact .inr rfl

end

/-- Settles O22: an agent that is not enabled does nothing, no handler is enabled under the mask, and no arrival reads it. -/
theorem maskedHandlersWait : Obligations.MaskedHandlersWait := by
  refine ⟨fun a s => ⟨?_, runAgent_disabled⟩, fun s hmask => ⟨?_, ?_, ?_⟩, fun s hrst => ⟨?_, ?_, ?_, ?_, ?_, ?_⟩⟩
  · cases a with
    | tick => exact enabled_tick_iff
    | conv => exact enabled_conv_iff
    | bus => exact enabled_bus_iff
    | main => exact enabled_main_iff
    | settle => exact enabled_settle_iff
  · exact runAgent_masked hmask (by decide) (by decide)
  · exact runAgent_masked hmask (by decide) (by decide)
  · exact runAgent_masked hmask (by decide) (by decide)
  · exact arriveTick_latches hrst
  · exact fun _ hraw => arriveConv_latches hrst hraw
  · exact fun _ => arriveBus_latches hrst
  · exact arriveTick_overrun hrst
  · exact fun _ => ⟨arriveConv_outOfRange hrst, arriveConv_overrun hrst⟩
  · exact fun _ _ hpend => ⟨arriveBus_overrun hrst hpend, arriveBus_after_error hrst hpend⟩

end Sys2Proof.Machine

/-! PROOF. The commit of a response (R87, R103, R104): what `enqueueAll` does to the bytes held, and the meaning of a response
row with room and without. -/
namespace Sys2Proof.Machine

/-! ## `enqueueAll` -/

/-- Two runs of reads, one behind the other. -/
theorem readRun_add (cap : Nat) (m : Memory) (a n k : Nat) :
    Memory.readRun cap m a (n + k) = Memory.readRun cap m a n ++ Memory.readRun cap m (a + n) k := by
  simp [Memory.readRun, List.range_add, Nat.add_assoc]

/-- A run of reads may start at its address or at that address modulo the capacity (R40). -/
theorem readRun_mod (cap : Nat) (m : Memory) (a n : Nat) :
    Memory.readRun cap m (a % cap) n = Memory.readRun cap m a n := by
  simp only [Memory.readRun, Nat.mod_add_mod]

/-- A run of reads sees nothing of a run of writes that meets none of its addresses. -/
theorem readRun_writeRun_other (cap : Nat) (m : Memory) (a b n : Nat) (bs : List Byte)
    (h : ∀ i < n, ∀ j < bs.length, (b + j) % cap ≠ (a + i) % cap) :
    Memory.readRun cap (Memory.writeRun cap m b bs) a n = Memory.readRun cap m a n := by
  refine List.map_congr_left fun i hi => read_writeRun_other cap m b bs _ (h i (List.mem_range.1 hi))

section
variable {cap : Nat} {q q' : Ring} {bs : List Byte}

/-- `enqueueAll` answers exactly inside its precondition (R87). -/
theorem enqueueAll_of_le (hfit : bs.length ≤ q.free cap) :
    q.enqueueAll cap bs = some { q with
      storage := Memory.writeRun cap q.storage q.head.toNat bs
      head := Ring.moveIndex cap q.head bs.length } := by
  simp [Ring.enqueueAll, hfit]

/-- The head stands `count` slots after the tail (R81). -/
theorem tail_add_count (h : RingOk cap q) : (q.tail.toNat + q.count cap) % cap = q.head.toNat := by
  have hhead := h.head
  have htail := h.tail
  rw [wrap_eq htail (count_lt cap q h.pos).le, count_eq_ite h]
  split_ifs <;> omega

/-- An accepted sequence makes the ring longer by its length (R87). -/
theorem count_enqueueAll (h : RingOk cap q) (hc : cap ≤ 256) (he : q.enqueueAll cap bs = some q') :
    q'.count cap = q.count cap + bs.length := by
  have hhead := h.head
  have htail := h.tail
  have hbefore := count_eq_ite h
  have hafter := count_eq_ite (ringOk_enqueueAll h hc he)
  obtain ⟨hfit, rfl⟩ := enqueueAll_eq_some he
  rw [Ring.free, hbefore] at hfit
  simp only [moveIndex_toNat cap q.head _ h.pos hc] at hafter
  rw [wrap_eq hhead (by omega)] at hafter
  rw [hbefore, hafter]
  split_ifs at hfit ⊢ <;> omega

/-- The bytes held after `enqueueAll` are the bytes held before it, then the new ones (R87): the slots written lie behind those
held, and the first of them is the head. -/
theorem held_enqueueAll (h : RingOk cap q) (hc : cap ≤ 256) (he : q.enqueueAll cap bs = some q') :
    q'.held cap = q.held cap ++ bs := by
  have hcount := count_enqueueAll h hc he
  obtain ⟨hfit, rfl⟩ := enqueueAll_eq_some he
  have hroom : q.count cap + bs.length < cap := by
    have := count_lt cap q h.pos
    rw [Ring.free] at hfit
    omega
  have hstart : Memory.readRun cap (Memory.writeRun cap q.storage q.head.toNat bs) (q.tail.toNat + q.count cap)
      bs.length = bs := by
    rw [← readRun_mod, tail_add_count h]
    exact readRun_writeRun cap q.storage _ bs h.canonical (by omega)
  have hbehind : ∀ i < q.count cap, ∀ j < bs.length, (q.head.toNat + j) % cap ≠ (q.tail.toNat + i) % cap := by
    intro i hi j hj hsame
    rw [← tail_add_count h, Nat.mod_add_mod, Nat.add_assoc] at hsame
    have hoffset : (q.count cap + j) % cap = i % cap := Nat.ModEq.add_left_cancel' _ hsame
    rw [Nat.mod_eq_of_lt (by omega), Nat.mod_eq_of_lt (by omega)] at hoffset
    omega
  rw [Ring.held, hcount, readRun_add, hstart, readRun_writeRun_other _ _ _ _ _ _ hbehind, Ring.held]

end

/-! ## A response row -/

section
variable {i : Instr} {s : State}

/-- The meaning of a response row is the commit of its frame (R103, log 14). -/
theorem exec_response (hresp : i.isRequest = false) : exec i s = .next (buildFrame i.opcode i.payload s) := by
  cases i with
  | getIdAndVersionResp => rfl
  | getThresholdResp => rfl
  | readCurrentValuesResp => rfl
  | readCurrentAveragesResp => rfl
  | getTriggerModeResp => rfl
  | getAlphaResp => rfl
  | _ => cases hresp

/-- With room for its frame a response row writes the frame behind the transmit ring's head and nothing else (R104). -/
theorem exec_response_of_fits (hresp : i.isRequest = false) (hfit : (encode i).length ≤ s.tx.free s.params.txCap) :
    exec i s = .next { s with tx := { s.tx with
      storage := Memory.writeRun s.params.txCap s.tx.storage s.tx.head.toNat (encode i)
      head := Ring.moveIndex s.params.txCap s.tx.head (encode i).length } } := by
  rw [exec_response hresp, buildFrame, ← encode, enqueueAll_of_le hfit]

/-- Without room a response row sets `txOverflow` and writes nothing else (R104). -/
theorem exec_response_of_full (hresp : i.isRequest = false) (hfull : s.tx.free s.params.txCap < (encode i).length) :
    exec i s = .next { s with txOverflow := true } := by
  rw [exec_response hresp, buildFrame, ← encode, Ring.enqueueAll, if_neg (Nat.not_le.2 hfull)]

/-- With room the transmit ring then holds the frame behind what it held (R87, R104). -/
theorem exec_response_commits (hresp : i.isRequest = false) (htx : RingOk s.params.txCap s.tx)
    (hcap : s.params.txCap ≤ 256) (hfit : (encode i).length ≤ s.tx.free s.params.txCap) :
    ∃ t, exec i s = .next t ∧ t.txHeld = s.txHeld ++ encode i ∧ t.tx.tail = s.tx.tail ∧ t = { s with tx := t.tx } :=
  ⟨_, exec_response_of_fits hresp hfit, held_enqueueAll htx hcap (enqueueAll_of_le hfit), rfl, rfl⟩

end

end Sys2Proof.Machine

/-! PROOF. The critical sections of opcodes 0x04 and 0x05 (O58): what one reads, what follows it, and the frame builder's
step. -/
namespace Sys2Proof.Machine

/-! ## Steps of `Main` at the micro-steps of a frame -/

/-- `Main`'s first step, then the others. -/
theorem mainSteps_succ_of_next {n : Nat} {s t : State} (h : runAgent .main s = .next t) :
    mainSteps (n + 1) s = mainSteps n t := by
  rw [mainSteps, h, thenNext_next]

theorem mainSteps_one_of_next {s t : State} (h : runAgent .main s = .next t) : mainSteps 1 s = .next t :=
  mainSteps_succ_of_next h

/-- A critical section does not stop `Main` (R50). -/
theorem MainRuns.afterCritical {s : State} (h : MainRuns s) (m : MicroStep) :
    MainRuns { s with intMask := false, micro := m } := ⟨h.rst, h.boot, h.idle⟩

/-- At a snapshot `Main` takes the next critical section (R49). -/
theorem runAgent_main_snapshot {s : State} {kind : SnapKind} {taken : List Half} (h : MainRuns s)
    (hmicro : s.micro = .snapshot kind taken) : runAgent .main s = snapshotStep kind taken s := by
  rw [runAgent_main h]
  simp only [mainStep, h.boot, hmicro]

/-- At the frame builder `Main` runs the response row it is called with (R103). -/
theorem runAgent_main_build {s : State} {response : Instr} (h : MainRuns s) (hmicro : s.micro = .build response) :
    runAgent .main s = exec response { s with micro := .remove } := by
  rw [runAgent_main h]
  simp only [mainStep, h.boot, hmicro, buildStep]

/-! ## One critical section -/

/-- Opcode 0x04 reads the raw sample (R180). -/
@[simp] theorem snapChannel_values (c : BitVec 2) (s : State) :
    (snapChannel .values c s).1 = (s.chan c).rawSample := rfl

/-- Opcode 0x05 reads the truncated average (R181). -/
@[simp] theorem snapChannel_averages (c : BitVec 2) (s : State) :
    (snapChannel .averages c s).1 = f2u16 (s.chan c).average := rfl

/-- The response row of a whole snapshot (R180, R181). -/
def snapResponse : SnapKind → Half → Half → Half → Half → Instr
  | .values => .readCurrentValuesResp
  | .averages => .readCurrentAveragesResp

theorem snapResponse_isRequest (kind : SnapKind) (v0 v1 v2 v3 : Half) :
    (snapResponse kind v0 v1 v2 v3).isRequest = false := by
  cases kind <;> rfl

/-- The frame of a whole snapshot has 15 bytes: eight of payload and seven around it (R62). -/
theorem encode_snapResponse_length (kind : SnapKind) (v0 v1 v2 v3 : Half) :
    (encode (snapResponse kind v0 v1 v2 v3)).length = 15 := by
  cases kind <;> rfl

/-- Fewer than three values taken: the critical section appends the next channel's value (R49). -/
theorem snapshotStep_of_lt {kind : SnapKind} {taken : List Half} {s : State} (hlen : taken.length < 3) :
    snapshotStep kind taken s = .next { s with
      intMask := false
      micro := .snapshot kind (taken ++ [(snapChannel kind (BitVec.ofNat 2 taken.length) s).1]) } := by
  have hshort : ∀ {v v0 v1 v2 v3 : Half}, taken ++ [v] ≠ [v0, v1, v2, v3] := fun hall => by
    have := congrArg List.length hall
    simp only [List.length_append, List.length_cons, List.length_nil] at this
    omega
  unfold snapshotStep
  dsimp only
  split
  next hall => exact absurd hall hshort
  next hall => exact absurd hall hshort
  next => rfl

/-- Three values taken: the fourth critical section calls the frame builder with them and channel 3's (R49). -/
theorem snapshotStep_fourth (kind : SnapKind) (v0 v1 v2 : Half) (s : State) :
    snapshotStep kind [v0, v1, v2] s = .next { s with
      intMask := false
      micro := .build (snapResponse kind v0 v1 v2 (snapChannel kind 3 s).1) } := by
  cases kind <;> rfl

/-! ## The end of a snapshot -/

section
variable {s : State} {kind : SnapKind} {v0 v1 v2 : Half}

/-- The step of `Main` with three values taken. -/
theorem runAgent_main_fourth (h : MainRuns s) (hmicro : s.micro = .snapshot kind [v0, v1, v2]) :
    runAgent .main s = .next { s with
      intMask := false
      micro := .build (snapResponse kind v0 v1 v2 (snapChannel kind 3 s).1) } := by
  rw [runAgent_main_snapshot h hmicro, snapshotStep_fourth]

/-- With three values taken, two steps of `Main` answer what the response row of the whole snapshot does (R49, R103). -/
theorem mainSteps_two_of_fourth {t : State} (h : MainRuns s) (hmicro : s.micro = .snapshot kind [v0, v1, v2])
    (hexec : exec (snapResponse kind v0 v1 v2 (snapChannel kind 3 s).1)
      { s with intMask := false, micro := .remove } = .next t) : mainSteps 2 s = .next t := by
  rw [mainSteps_succ_of_next (runAgent_main_fourth h hmicro)]
  exact mainSteps_one_of_next ((runAgent_main_build (h.afterCritical _) rfl).trans hexec)

/-- With room the response of the whole snapshot is committed (R104). -/
theorem mainSteps_two_commits (h : MainRuns s) (hmicro : s.micro = .snapshot kind [v0, v1, v2])
    (htx : RingOk s.params.txCap s.tx) (hcap : s.params.txCap ≤ 256) (hfit : 15 ≤ s.tx.free s.params.txCap) :
    ∃ t, mainSteps 2 s = .next t ∧
      t.txHeld = s.txHeld ++ encode (snapResponse kind v0 v1 v2 (snapChannel kind 3 s).1) ∧ t.tx.tail = s.tx.tail ∧
      t = { s with intMask := false, tx := t.tx, micro := .remove } := by
  obtain ⟨t, hexec, hheld, htail, hframe⟩ :=
    exec_response_commits (s := { s with intMask := false, micro := .remove })
      (snapResponse_isRequest kind v0 v1 v2 (snapChannel kind 3 s).1) htx hcap
      ((encode_snapResponse_length ..).trans_le hfit)
  exact ⟨t, mainSteps_two_of_fourth h hmicro hexec, hheld, htail, hframe⟩

/-- Without room it is lost and `txOverflow` set (R104). -/
theorem mainSteps_two_overflows (h : MainRuns s) (hmicro : s.micro = .snapshot kind [v0, v1, v2])
    (hfull : s.tx.free s.params.txCap < 15) :
    mainSteps 2 s = .next { s with intMask := false, txOverflow := true, micro := .remove } :=
  mainSteps_two_of_fourth h hmicro
    (exec_response_of_full (snapResponse_isRequest ..) (hfull.trans_eq (encode_snapResponse_length ..).symm))

end

/-- Settles O58: one critical section at a time; after the fourth the frame builder runs the response row of the four
values. -/
theorem snapshotStepReadsOneChannel : Obligations.SnapshotStepReadsOneChannel := by
  intro s kind taken h hmicro
  refine ⟨fun hlen => ?_, ?_⟩
  · rw [runAgent_main_snapshot h hmicro, snapshotStep_of_lt hlen]
    cases kind with
    | values => rw [snapChannel_values]
    | averages => rw [snapChannel_averages]
  · rintro v0 v1 v2 rfl
    cases kind with
    | values =>
      exact ⟨runAgent_main_fourth h hmicro, fun htx hcap =>
        ⟨mainSteps_two_commits h hmicro htx hcap, mainSteps_two_overflows h hmicro⟩⟩
    | averages =>
      exact ⟨runAgent_main_fourth h hmicro, fun htx hcap =>
        ⟨mainSteps_two_commits h hmicro htx hcap, mainSteps_two_overflows h hmicro⟩⟩

end Sys2Proof.Machine

/-! PROOF. The frame format both ways (R61 to R66): the bytes and the checksum of an encoded frame (O4), exactly when `Decode`
succeeds, and that it inverts `Encode` (O3). -/
namespace Sys2Proof

/-! ## The checksum -/

/-- The xor of a sequence is the xor of its parts (R63). -/
@[simp] theorem xorAll_append (xs ys : List Byte) : xorAll (xs ++ ys) = xorAll xs ^^^ xorAll ys := by
  induction xs with
  | nil => simp [xorAll]
  | cons x xs ih => simp [xorAll, ih, BitVec.xor_assoc]

/-- The checksum byte makes the xor from the opcode on zero, whatever the payload (R63). -/
theorem xorAll_with_checksum (op len : Byte) (P : List Byte) :
    xorAll (op :: len :: (P ++ [op ^^^ len ^^^ xorAll P])) = 0x00 := by
  have hcheck : xorAll [op ^^^ len ^^^ xorAll P] = op ^^^ (len ^^^ xorAll P) := by
    simp [xorAll, BitVec.xor_assoc]
  have hsplit : xorAll (op :: len :: P) = op ^^^ (len ^^^ xorAll P) := rfl
  rw [← List.cons_append, ← List.cons_append, xorAll_append, hcheck, hsplit, BitVec.xor_self]
  rfl

/-! ## The bytes of an encoded frame -/

section
variable (op : Byte) (P : List Byte)

@[simp] theorem encodeFrame_length : (encodeFrame op P).length = P.length + 7 := by
  simp [encodeFrame, syncBytes]

theorem encodeFrame_take_sync : (encodeFrame op P).take 4 = syncBytes := rfl

theorem encodeFrame_drop_sync : (encodeFrame op P).drop 4 =
    op :: BitVec.ofNat 8 (P.length + 2) :: (P ++ [op ^^^ BitVec.ofNat 8 (P.length + 2) ^^^ xorAll P]) := rfl

theorem encodeFrame_drop_header : (encodeFrame op P).drop 6 =
    P ++ [op ^^^ BitVec.ofNat 8 (P.length + 2) ^^^ xorAll P] := rfl

theorem encodeFrame_opcode : (encodeFrame op P)[4]? = some op := rfl

theorem encodeFrame_lengthByte : (encodeFrame op P)[5]? = some (BitVec.ofNat 8 (P.length + 2)) := rfl

/-- The bytes from offset 6 on hold the payload (R62). -/
theorem encodeFrame_payload : ((encodeFrame op P).drop 6).take P.length = P := by
  rw [encodeFrame_drop_header, List.take_left]

/-- The byte after the payload is the checksum (R63, R65). -/
theorem encodeFrame_checksum :
    (encodeFrame op P)[P.length + 6]? = some (op ^^^ BitVec.ofNat 8 (P.length + 2) ^^^ xorAll P) := by
  rw [Nat.add_comm, ← List.getElem?_drop, encodeFrame_drop_header, List.getElem?_concat_length]

/-- From the opcode on the bytes of a frame xor to zero (R63). -/
theorem xorAll_encodeFrame : xorAll ((encodeFrame op P).drop 4) = 0x00 := by
  rw [encodeFrame_drop_sync, xorAll_with_checksum]

end

/-- Settles O4: the frame byte by byte, and its checksum. -/
theorem encodedFrameHasZeroXor : Obligations.EncodedFrameHasZeroXor := by
  refine ⟨fun op P _ => ⟨?_, ?_, ?_, ?_, ?_, ?_, ?_⟩, fun op => ?_⟩
  · exact encodeFrame_length op P
  · exact encodeFrame_take_sync op P
  · exact encodeFrame_opcode op P
  · exact encodeFrame_lengthByte op P
  · exact encodeFrame_payload op P
  · exact encodeFrame_checksum op P
  · exact xorAll_encodeFrame op P
  · simpa [xorAll] using encodeFrame_checksum op []

/-! ## Exactly when `Decode` succeeds -/

/-- What `Decode` requires of the bytes `F` of a frame with opcode `op` and payload `P` (R66), the longest frame allowed
being `maxFrame`. -/
structure GoodFrame (maxFrame : Nat) (F : List Byte) (op len : Byte) (P : List Byte) : Prop where
  sync : F.take 4 = syncBytes
  opcode : F[4]? = some op
  notSync : op ≠ 0xAA
  lengthByte : F[5]? = some len
  atLeast : 2 ≤ len.toNat
  atMost : len.toNat + 5 ≤ maxFrame
  whole : len.toNat + 5 ≤ F.length
  checksum : xorAll ((F.drop 4).take (len.toNat + 1)) = 0x00
  payload : P = (F.drop 6).take (len.toNat - 2)

/-- The part of a frame its checksum covers, when the header is written out. -/
theorem checked_of_header {len : Byte} (b0 b1 b2 b3 op : Byte) (body : List Byte) (hlen : 2 ≤ len.toNat) :
    ((b0 :: b1 :: b2 :: b3 :: op :: len :: body).drop 4).take (len.toNat + 1) =
      op :: len :: body.take (len.toNat - 1) := by
  obtain ⟨k, hk⟩ := Nat.exists_eq_add_of_le' hlen
  rw [hk]
  rfl

/-- A frame `Decode` accepts passed every check of R66. -/
theorem goodFrame_of_parseFrame {n : Nat} {F P : List Byte} {op : Byte} (h : parseFrame n F = .ok (op, P)) :
    ∃ len, GoodFrame n F op len P := by
  unfold parseFrame at h
  split at h
  next b0 b1 b2 b3 op' rest =>
    split_ifs at h with hsync hop
    split at h
    next => cases h
    next len body =>
      split_ifs at h with hshort hlong hbody hxor
      obtain ⟨rfl, rfl⟩ := Prod.mk.inj (Except.ok.inj h)
      have hlen : 2 ≤ len.toNat := by omega
      exact ⟨len,
        { sync := not_not.1 hsync
          opcode := rfl
          notSync := hop
          lengthByte := rfl
          atLeast := hlen
          atMost := by omega
          whole := by simp only [List.length_cons]; omega
          checksum := by rw [checked_of_header _ _ _ _ _ _ hlen]; exact not_not.1 hxor
          payload := rfl }⟩
  next => cases h

/-- Bytes that pass every check of R66 are accepted. -/
theorem parseFrame_of_goodFrame {n : Nat} {F P : List Byte} {op len : Byte} (h : GoodFrame n F op len P) :
    parseFrame n F = .ok (op, P) := by
  obtain ⟨hsync, hop, hne, hlb, hlen, hmax, hwhole, hxor, rfl⟩ := h
  match F, hlb with
  | b0 :: b1 :: b2 :: b3 :: op' :: len' :: body, hlb =>
    obtain rfl : op' = op := Option.some.inj hop
    obtain rfl : len' = len := Option.some.inj hlb
    rw [checked_of_header _ _ _ _ _ _ hlen] at hxor
    simp only [List.length_cons] at hwhole
    have hbody : ¬ body.length < len'.toNat - 1 := by omega
    have hsync' : [b0, b1, b2, b3] = syncBytes := hsync
    simp only [parseFrame, hsync', hne, hxor, Nat.not_lt.2 hlen, Nat.not_lt.2 hmax, hbody, ne_eq,
      not_true_eq_false, if_false]
    rfl

/-- `Decode` succeeds exactly on the frames of the format (R66). -/
theorem parseFrame_eq_ok_iff {n : Nat} {F P : List Byte} {op : Byte} :
    parseFrame n F = .ok (op, P) ↔ ∃ len, GoodFrame n F op len P :=
  ⟨goodFrame_of_parseFrame, fun ⟨_, h⟩ => parseFrame_of_goodFrame h⟩

/-! ## `Decode` inverts `Encode` -/

/-- The length byte of a payload of the format is not truncated (R62). -/
theorem lengthByte_toNat {n : Nat} (h : n ≤ 253) : (BitVec.ofNat 8 (n + 2)).toNat = n + 2 :=
  (BitVec.toNat_ofNat _ _).trans (Nat.mod_eq_of_lt (by omega))

/-- An encoded frame passes every check of R66. -/
theorem goodFrame_encodeFrame {n : Nat} {op : Byte} {P : List Byte} (hop : op ≠ 0xAA) (hP : P.length ≤ 253)
    (hn : P.length + 7 ≤ n) : GoodFrame n (encodeFrame op P) op (BitVec.ofNat 8 (P.length + 2)) P where
  sync := encodeFrame_take_sync op P
  opcode := encodeFrame_opcode op P
  notSync := hop
  lengthByte := encodeFrame_lengthByte op P
  atLeast := by rw [lengthByte_toNat hP]; omega
  atMost := by rw [lengthByte_toNat hP]; omega
  whole := by rw [lengthByte_toNat hP, encodeFrame_length]
  checksum := by
    rw [lengthByte_toNat hP, List.take_of_length_le (by simp), xorAll_encodeFrame]
  payload := by rw [lengthByte_toNat hP, Nat.add_sub_cancel, encodeFrame_payload]

/-- `Decode(Encode(op, P)) = (op, P)`, also in a scanner that allows only frames of up to `n` bytes (R66, R97). -/
theorem parseFrame_encodeFrame {n : Nat} {op : Byte} {P : List Byte} (hop : op ≠ 0xAA) (hP : P.length ≤ 253)
    (hn : P.length + 7 ≤ n) : parseFrame n (encodeFrame op P) = .ok (op, P) :=
  parseFrame_of_goodFrame (goodFrame_encodeFrame hop hP hn)

/-- Settles O3: every length byte is within the longest frame of the format, so the checks left are those of R66. -/
theorem parseFrameIsDecode : Obligations.ParseFrameIsDecode := by
  refine ⟨fun F op P _ => ?_, fun op P hop hP => ?_⟩
  · rw [parseFrame_eq_ok_iff]
    constructor
    · rintro ⟨len, hsync, hopcode, hne, hlb, hlen, -, hwhole, hxor, hpayload⟩
      exact ⟨hsync, hopcode, hne, len, hlb, hlen, hwhole, hxor, hpayload⟩
    · rintro ⟨hsync, hopcode, hne, len, hlb, hlen, hwhole, hxor, hpayload⟩
      have hmax : len.toNat + 5 ≤ maxFrameBytes := Nat.add_le_add_right (Nat.le_of_lt_succ len.isLt) 5
      exact ⟨len, hsync, hopcode, hne, hlb, hlen, hmax, hwhole, hxor, hpayload⟩
  · exact parseFrame_encodeFrame hop hP (Nat.add_le_add_right hP 7)

end Sys2Proof

/-! PROOF. The two decoders give back what was encoded: the request rows (O1) and the response rows (O2) of R69. -/
namespace Sys2Proof

/-! ## The frame of a row -/

/-- The frame of every row is one the format admits: the family of `Laws.EncodedFrame`, assembled. -/
theorem encodedFrame_statement (i : Instr) : Laws.EncodedFrame.Statement i :=
  match i with
  | .getIdAndVersion p => Laws.EncodedFrame.getIdAndVersion p
  | .getThreshold p => Laws.EncodedFrame.getThreshold p
  | .setThreshold p => Laws.EncodedFrame.setThreshold p
  | .readCurrentValues p => Laws.EncodedFrame.readCurrentValues p
  | .readCurrentAverages p => Laws.EncodedFrame.readCurrentAverages p
  | .setTriggerMode p => Laws.EncodedFrame.setTriggerMode p
  | .getTriggerMode p => Laws.EncodedFrame.getTriggerMode p
  | .reset p => Laws.EncodedFrame.reset p
  | .recalibrate p => Laws.EncodedFrame.recalibrate p
  | .storeSettings p => Laws.EncodedFrame.storeSettings p
  | .getAlpha p => Laws.EncodedFrame.getAlpha p
  | .setAlpha p => Laws.EncodedFrame.setAlpha p
  | .getIdAndVersionResp identifier version => Laws.EncodedFrame.getIdAndVersionResp identifier version
  | .getThresholdResp threshold => Laws.EncodedFrame.getThresholdResp threshold
  | .readCurrentValuesResp v0 v1 v2 v3 => Laws.EncodedFrame.readCurrentValuesResp v0 v1 v2 v3
  | .readCurrentAveragesResp v0 v1 v2 v3 => Laws.EncodedFrame.readCurrentAveragesResp v0 v1 v2 v3
  | .getTriggerModeResp mode => Laws.EncodedFrame.getTriggerModeResp mode
  | .getAlphaResp percent => Laws.EncodedFrame.getAlphaResp percent

/-- The frame of a well-formed row parses to the row's opcode and payload (R66, R69). -/
theorem parseFrame_encode {i : Instr} (hwf : i.wellFormed = true) :
    parseFrame maxFrameBytes (encode i) = .ok (i.opcode, i.payload) := by
  obtain ⟨-, hmax, -, -, hop⟩ := encodedFrame_statement i hwf
  have hlen : i.payload.length + 7 ≤ maxFrameBytes := (encodeFrame_length _ _).symm.trans_le hmax
  have hne : i.opcode ≠ 0xAA := fun heq => absurd (heq ▸ hop) (by decide)
  exact parseFrame_encodeFrame hne (Nat.le_of_add_le_add_right hlen) hlen

theorem decode_encode {i : Instr} (hwf : i.wellFormed = true) : decode (encode i) = requestOf i.opcode i.payload := by
  rw [decode, parseFrame_encode hwf]

theorem decodeResponse_encode {i : Instr} (hwf : i.wellFormed = true) :
    decodeResponse (encode i) = responseOf i.opcode i.payload := by
  rw [decodeResponse, parseFrame_encode hwf]

/-! ## The row an opcode selects -/

/-- The opcode of a request row selects that row, with its whole payload (R69, R70). -/
theorem requestOf_opcode {i : Instr} (hreq : i.isRequest = true) : requestOf i.opcode i.payload = .ok i := by
  cases i with
  | getIdAndVersion | getThreshold | setThreshold | readCurrentValues | readCurrentAverages | setTriggerMode
  | getTriggerMode | reset | recalibrate | storeSettings | getAlpha | setAlpha => rfl
  | getIdAndVersionResp | getThresholdResp | readCurrentValuesResp | readCurrentAveragesResp | getTriggerModeResp
  | getAlphaResp => cases hreq

/-- The two bytes of a `u16le` read back (R42, R67). -/
@[simp] theorem le16_lowByte_highByte (v : Half) : le16 (lowByte v) (highByte v) = v := by
  refine BitVec.eq_of_getLsbD_eq fun k hk => ?_
  have hbits : (le16 (lowByte v) (highByte v)).getLsbD k =
      if k < 8 then (lowByte v).getLsbD k else (highByte v).getLsbD (k - 8) := by
    rw [le16, BitVec.getLsbD_append]
  rw [hbits]
  split
  next hlow => simp [lowByte, hlow]
  next hhigh =>
    have hbyte : k - 8 < 8 := by omega
    simp [highByte, hbyte, Nat.add_sub_cancel' (Nat.not_lt.1 hhigh)]

/-- The opcode of a well-formed response row selects that row, and its operands are read back (R67, R69, R70). -/
theorem responseOf_opcode {i : Instr} (hwf : i.wellFormed = true) (hresp : i.isRequest = false) :
    responseOf i.opcode i.payload = .ok i := by
  cases i with
  | getIdAndVersionResp identifier version =>
    have hlen : identifier.length = 16 := of_decide_eq_true hwf
    simp [responseOf, Instr.opcode, Instr.payload, hlen]
  | readCurrentValuesResp | readCurrentAveragesResp =>
    simp [responseOf, Instr.opcode, Instr.payload, fourHalves, le16Bytes]
  | getThresholdResp | getTriggerModeResp | getAlphaResp => rfl
  | getIdAndVersion | getThreshold | setThreshold | readCurrentValues | readCurrentAverages | setTriggerMode
  | getTriggerMode | reset | recalibrate | storeSettings | getAlpha | setAlpha => cases hresp

/-- Settles O1: the frame parses to the row's opcode and payload, and the opcode selects the row. -/
theorem decodeEncodeAgreesOnRequests : Obligations.DecodeEncodeAgreesOnRequests :=
  fun _ hwf hreq => (decode_encode hwf).trans (requestOf_opcode hreq)

/-- Settles O2: as O1, with the operands read back from the payload. -/
theorem decodeEncodeAgreesOnResponses : Obligations.DecodeEncodeAgreesOnResponses :=
  fun _ hwf hresp => (decodeResponse_encode hwf).trans (responseOf_opcode hwf hresp)

end Sys2Proof

/-! PROOF. A good frame whose opcode has no row (R71): scanned, dispatched without effect, removed (O11). -/
namespace Sys2Proof.Machine

/-- An opcode outside 0x01 to 0x0C selects no row (R69, R71). -/
theorem requestOf_of_no_row {op : Byte} (hop : op.toNat = 0 ∨ 0x0C < op.toNat) (payload : List Byte) :
    requestOf op payload = .error (.unknownOpcode op) := by
  unfold requestOf
  split
  case h_13 => rfl
  all_goals omega

/-- The dispatcher on a frame whose opcode has no row only goes on to the removal (R71). -/
theorem dispatchFrame_of_no_row {s : State} {op : Byte} (hheld : FrameHeld s) (hbyte : s.rxHeld[4]? = some op)
    (hop : op.toNat = 0 ∨ 0x0C < op.toNat) : dispatchFrame s = .next { s with micro := .remove } := by
  have hopcode : frameOpcode s = op := by simp [frameOpcode, List.getD_eq_getElem?_getD, hbyte]
  simp only [dispatchFrame, hheld.buffered, if_true, hopcode, requestOf_of_no_row hop]

/-- At the dispatcher `Main` dispatches the frame at the tail (R52, R99). -/
theorem runAgent_main_dispatch {s : State} (h : MainRuns s) (hmicro : s.micro = .dispatch) :
    runAgent .main s = dispatchFrame s := by
  rw [runAgent_main h]
  simp only [mainStep, h.boot, hmicro]

/-- From the dispatcher on, a frame whose opcode has no row is removed by two steps of `Main`, with no other effect (R71,
R100). -/
theorem mainSteps_two_of_no_row {s : State} {op : Byte} (h : Invariant s) (hruns : MainRuns s)
    (hmicro : s.micro = .dispatch) (hbyte : s.rxHeld[4]? = some op) (hop : op.toNat = 0 ∨ 0x0C < op.toNat) :
    ∃ t, mainSteps 2 s = .next t ∧ t.rxHeld = s.rxHeld.drop s.scanLen ∧ t.rx.head = s.rx.head ∧
      t.rx.storage = s.rx.storage ∧
      t = { s with rx := t.rx, phase := .trigger, micro := .phaseStep, scanLen := 0 } := by
  have hdispatch : runAgent .main s = .next { s with micro := .remove } :=
    (runAgent_main_dispatch hruns hmicro).trans (dispatchFrame_of_no_row (h.held (by simp [hmicro])) hbyte hop)
  obtain ⟨t, hremove, hheld, hhead, hstorage, hframe⟩ :=
    (settleDelayThenRemoval _ (h.runAgent hdispatch) hruns.rst hruns.boot rfl).2 hruns.idle
  exact ⟨t, (mainSteps_succ_of_next hdispatch).trans (mainSteps_one_of_next hremove), hheld, hhead, hstorage, hframe⟩

/-- Settles O11: the scanner leaves the frame to the dispatcher, which has no effect, and the frame is removed. -/
theorem undefinedOpcodeHasNoEffect : Obligations.UndefinedOpcodeHasNoEffect := by
  intro s op payload h hready hphase hparse hop
  obtain ⟨u, hscan, hheld, hhead, hstorage, hframe⟩ := scan_hands_frame_to_dispatcher h hready hphase hparse
  have hbyte : u.rxHeld[4]? = some op := hheld ▸ (parseFrame_eq_ok hparse).1
  have hu : Invariant u := h.runAgent hscan
  have hruns : MainRuns u := by
    rw [hframe]
    exact ⟨hready.rst, hready.boot, hready.idle⟩
  have hmicro : u.micro = .dispatch := by rw [hframe]
  have hlen : u.scanLen = payload.length + 7 := by rw [hframe]
  obtain ⟨t, hsteps, hheld', hhead', hstorage', hframe'⟩ := mainSteps_two_of_no_row hu hruns hmicro hbyte hop
  refine ⟨t, (mainSteps_succ_of_next hscan).trans hsteps, ?_, hhead'.trans hhead, hstorage'.trans hstorage, ?_⟩
  · rw [hheld', hheld, hlen, List.drop_drop]
  · rw [hframe', hframe, ← hready.between, ← h.resting hready.between]

end Sys2Proof.Machine

/-! PROOF. The rings (R81 to R88): `count` and `free` (O13), what each operation does to the bytes held (O14 to O17), the FIFO
law (O18). One byte appended is a sequence of one, one byte taken is an `advance` by one, so O14 and O15 come from the rules for
`enqueueAll` and `advance`. -/
namespace Sys2Proof.Machine

section
variable {cap : Nat} {q q' : Ring} {b : Byte}

/-! ## `count`, and the empty and the full ring -/

/-- `count` is the difference of the indices modulo the capacity (R81). -/
theorem count_eq_emod (h : RingOk cap q) : (q.count cap : Int) = ((q.head.toNat : Int) - q.tail.toNat) % cap := by
  have htail := h.tail
  have hsum : ((q.head.toNat + cap - q.tail.toNat : Nat) : Int) = (q.head.toNat : Int) - q.tail.toNat + cap := by omega
  rw [Ring.count, Int.natCast_emod, hsum, Int.add_emod_right]

/-- Nothing is counted exactly in an empty ring (R80, R81). -/
theorem count_eq_zero_iff (h : RingOk cap q) : q.count cap = 0 ↔ q.isEmpty = true := by
  have hhead := h.head
  have htail := h.tail
  rw [count_eq_ite h, Ring.isEmpty, decide_eq_true_eq, ← BitVec.toNat_inj]
  split <;> omega

/-- `CAP - 1` bytes are counted exactly in a full ring (R80, R81). -/
theorem count_eq_pred_iff (h : RingOk cap q) : q.count cap = cap - 1 ↔ q.isFull cap = true := by
  have hhead := h.head
  have htail := h.tail
  have hone : 1 ≤ cap := h.pos
  rw [count_eq_ite h, Ring.isFull, decide_eq_true_eq, wrap_eq hhead hone]
  split_ifs <;> omega

/-- No more than `CAP - 1` bytes are counted (R81). -/
theorem count_le_pred (h : RingOk cap q) : q.count cap ≤ cap - 1 := Nat.le_pred_of_lt (count_lt cap q h.pos)

/-- Settles O13: `count` against the two indices. -/
theorem countTellsEmptyAndFull : Obligations.CountTellsEmptyAndFull := by
  intro cap q h
  exact ⟨count_eq_emod h, count_le_pred h, count_eq_zero_iff h, count_eq_pred_iff h, Nat.sub_add_cancel (count_le_pred h)⟩

/-! ## Moving an index -/

/-- An index moved by nothing stays. -/
theorem moveIndex_zero {i : Byte} (hi : i.toNat < cap) : Ring.moveIndex cap i 0 = i := by
  rw [Ring.moveIndex, Nat.add_zero, Nat.mod_eq_of_lt hi, BitVec.ofNat_toNat, BitVec.setWidth_eq]

/-- An index moved twice is moved by the sum (R89). -/
theorem moveIndex_moveIndex (i : Byte) (m n : Nat) (h0 : 0 < cap) (hc : cap ≤ 256) :
    Ring.moveIndex cap (Ring.moveIndex cap i m) n = Ring.moveIndex cap i (m + n) := by
  rw [Ring.moveIndex, moveIndex_toNat cap i m h0 hc, Nat.mod_add_mod, Nat.add_assoc, ← Ring.moveIndex]

/-! ## `enqueueAll` and `enqueue` -/

/-- Settles O17: the rules of `enqueueAll`, which answers inside its precondition. -/
theorem enqueueAllCommitsTheWhole : Obligations.EnqueueAllCommitsTheWhole := by
  intro cap q bytes h hc hfit
  have he := enqueueAll_of_le hfit
  exact ⟨_, he, ringOk_enqueueAll h hc he, held_enqueueAll h hc he, rfl, moveIndex_toNat cap q.head _ h.pos hc,
    fun a => read_writeRun_other cap q.storage _ bytes a⟩

/-- `enqueue` refuses exactly when `CAP - 1` bytes are held (R84). -/
theorem enqueue_eq_none_iff (h : RingOk cap q) : q.enqueue cap b = none ↔ q.count cap = cap - 1 := by
  rw [count_eq_pred_iff h, Ring.enqueue]
  split
  next hfull => simp [hfull]
  next hroom => simp [hroom]

/-- To append a byte is to append the sequence of that byte (R84, R87). -/
theorem enqueue_eq_enqueueAll (h : RingOk cap q) : q.enqueue cap b = q.enqueueAll cap [b] := by
  have hle := count_le_pred h
  by_cases hfull : q.count cap = cap - 1
  · have hnofit : ¬ [b].length ≤ q.free cap := by simp [Ring.free, hfull]
    rw [(enqueue_eq_none_iff h).2 hfull, Ring.enqueueAll, if_neg hnofit]
  · have hfit : [b].length ≤ q.free cap := by
      rw [Ring.free, List.length_singleton]
      omega
    have hroom : ¬ q.isFull cap = true := mt (count_eq_pred_iff h).2 hfull
    rw [enqueueAll_of_le hfit, Ring.enqueue, if_neg hroom]
    rfl

/-- The bytes held after `enqueue` are those held before it, then the new one (R84). -/
theorem held_enqueue (h : RingOk cap q) (hc : cap ≤ 256) (he : q.enqueue cap b = some q') :
    q'.held cap = q.held cap ++ [b] :=
  held_enqueueAll h hc ((enqueue_eq_enqueueAll h).symm.trans he)

/-- Settles O14: a byte for which there is room is a sequence that fits. -/
theorem enqueueAppendsOrDrops : Obligations.EnqueueAppendsOrDrops := by
  intro cap q b h hc
  refine ⟨(enqueue_eq_none_iff h).2, fun hroom => ?_⟩
  have hfit : [b].length ≤ q.free cap := by
    rw [Ring.free, List.length_singleton]
    omega
  obtain ⟨q', he, hok, hheld, htail, hhead, hstorage⟩ := enqueueAllCommitsTheWhole cap q [b] h hc hfit
  refine ⟨q', (enqueue_eq_enqueueAll h).trans he, hok, hheld, htail, hhead, fun a ha => hstorage a fun i hi => ?_⟩
  obtain rfl : i = 0 := by simpa using hi
  rw [Nat.add_zero, Nat.mod_eq_of_lt h.head]
  exact ha.symm

/-! ## `dequeue` and `advance` -/

/-- `dequeue` answers none exactly when no byte is held (R85). -/
theorem dequeue_eq_none_iff (h : RingOk cap q) : q.dequeue cap = none ↔ q.held cap = [] := by
  rw [← List.length_eq_zero_iff, held_length, count_eq_zero_iff h, Ring.dequeue]
  split
  next hempty => simp [hempty]
  next hsome => simp [hsome]

/-- The byte returned is the oldest of those held before, and the others are held after (R85). -/
theorem held_dequeue (h : RingOk cap q) (hc : cap ≤ 256) (hd : q.dequeue cap = some (b, q')) :
    q.held cap = b :: q'.held cap := by
  obtain ⟨hsome, rfl, rfl⟩ := dequeue_eq_some hd
  have hcount : q.count cap ≠ 0 := by
    rw [ne_eq, count_eq_zero_iff h, hsome]
    exact Bool.false_ne_true
  obtain ⟨n, hn⟩ := Nat.exists_eq_succ_of_ne_zero hcount
  have hone : 1 ≤ q.count cap := Nat.one_le_iff_ne_zero.2 hcount
  rw [held_advance h hc (advance_of_le hone), Ring.held, hn, readRun_succ, List.drop_one, List.tail_cons]

/-- A byte taken makes the ring one shorter (R85). -/
theorem count_dequeue (h : RingOk cap q) (hc : cap ≤ 256) (hd : q.dequeue cap = some (b, q')) :
    q.count cap = q'.count cap + 1 := by
  rw [← held_length cap q, held_dequeue h hc hd, List.length_cons, held_length]

/-- Settles O15: a byte is returned exactly when one is held, and then only the tail moves. -/
theorem dequeueTakesTheOldest : Obligations.DequeueTakesTheOldest := by
  intro cap q h hc
  cases hd : q.dequeue cap with
  | none => rw [(dequeue_eq_none_iff h).1 hd]
  | some r =>
    obtain ⟨b, q'⟩ := r
    have hok := ringOk_dequeue h hc hd
    rw [held_dequeue h hc hd]
    obtain ⟨-, -, rfl⟩ := dequeue_eq_some hd
    exact ⟨_, rfl, hok, rfl, rfl, rfl⟩

/-! ## Sequences of calls -/

/-- An accepted byte, then the other calls. -/
theorem fifoRun_enqueue_of_some (calls : List FifoCall) (he : q.enqueue cap b = some q') :
    fifoRun cap (.enqueue b :: calls) q =
      (b :: (fifoRun cap calls q').1, (fifoRun cap calls q').2.1, (fifoRun cap calls q').2.2) := by
  simp only [fifoRun, he]

/-- A byte refused has no effect. -/
theorem fifoRun_enqueue_of_none (calls : List FifoCall) (he : q.enqueue cap b = none) :
    fifoRun cap (.enqueue b :: calls) q = fifoRun cap calls q := by
  simp only [fifoRun, he]

/-- A byte returned, then the other calls. -/
theorem fifoRun_dequeue_of_some (calls : List FifoCall) (hd : q.dequeue cap = some (b, q')) :
    fifoRun cap (.dequeue :: calls) q =
      ((fifoRun cap calls q').1, b :: (fifoRun cap calls q').2.1, (fifoRun cap calls q').2.2) := by
  simp only [fifoRun, hd]

/-- A `dequeue` that answers none has no effect. -/
theorem fifoRun_dequeue_of_none (calls : List FifoCall) (hd : q.dequeue cap = none) :
    fifoRun cap (.dequeue :: calls) q = fifoRun cap calls q := by
  simp only [fifoRun, hd]

/-- `n` calls of `dequeue` on a ring of at least `n` bytes move the tail by `n` (R86). -/
theorem fifoRun_dequeues {n : Nat} (h : RingOk cap q) (hc : cap ≤ 256) (hn : n ≤ q.count cap) :
    (fifoRun cap (List.replicate n .dequeue) q).2.2 = { q with tail := Ring.moveIndex cap q.tail n } := by
  induction n generalizing q with
  | zero =>
    rw [moveIndex_zero h.tail]
    rfl
  | succ n ih =>
    cases hd : q.dequeue cap with
    | none =>
      have hzero : q.count cap = 0 := by rw [← held_length, (dequeue_eq_none_iff h).1 hd, List.length_nil]
      omega
    | some r =>
      obtain ⟨b, q'⟩ := r
      have hcount := count_dequeue h hc hd
      rw [List.replicate_succ, fifoRun_dequeue_of_some _ hd, ih (ringOk_dequeue h hc hd) (by omega)]
      obtain ⟨-, -, rfl⟩ := dequeue_eq_some hd
      rw [moveIndex_moveIndex _ _ _ h.pos hc, Nat.add_comm 1 n]

/-- Settles O16: `advance` and the `n` calls of `dequeue` both move the tail by `n`. -/
theorem advanceEqualsDequeues : Obligations.AdvanceEqualsDequeues := by
  intro cap q n h hc hn
  have ha := advance_of_le hn
  exact ⟨_, ha, ringOk_advance h hc ha, held_advance h hc ha, moveIndex_toNat cap q.tail n h.pos hc, rfl, rfl,
    fifoRun_dequeues h hc hn⟩

/-- A sequence of calls keeps a ring well formed. -/
theorem ringOk_fifoRun (calls : List FifoCall) (h : RingOk cap q) (hc : cap ≤ 256) :
    RingOk cap (fifoRun cap calls q).2.2 := by
  induction calls generalizing q with
  | nil => exact h
  | cons call calls ih =>
    cases call with
    | enqueue b =>
      cases he : q.enqueue cap b with
      | none =>
        rw [fifoRun_enqueue_of_none _ he]
        exact ih h
      | some q' =>
        rw [fifoRun_enqueue_of_some _ he]
        exact ih (ringOk_enqueue h hc he)
    | dequeue =>
      cases hd : q.dequeue cap with
      | none =>
        rw [fifoRun_dequeue_of_none _ hd]
        exact ih h
      | some r =>
        rw [fifoRun_dequeue_of_some _ hd]
        exact ih (ringOk_dequeue h hc hd)

/-- The bytes held at first, then those accepted, are those returned, then those held at last (R88). -/
theorem held_fifoRun (calls : List FifoCall) (h : RingOk cap q) (hc : cap ≤ 256) :
    q.held cap ++ (fifoRun cap calls q).1 = (fifoRun cap calls q).2.1 ++ (fifoRun cap calls q).2.2.held cap := by
  induction calls generalizing q with
  | nil => exact List.append_nil _
  | cons call calls ih =>
    cases call with
    | enqueue b =>
      cases he : q.enqueue cap b with
      | none =>
        rw [fifoRun_enqueue_of_none _ he]
        exact ih h
      | some q' =>
        rw [fifoRun_enqueue_of_some _ he, ← ih (ringOk_enqueue h hc he), held_enqueue h hc he, List.append_assoc,
          List.singleton_append]
    | dequeue =>
      cases hd : q.dequeue cap with
      | none =>
        rw [fifoRun_dequeue_of_none _ hd]
        exact ih h
      | some r =>
        rw [fifoRun_dequeue_of_some _ hd, held_dequeue h hc hd, List.cons_append, ih (ringOk_dequeue h hc hd),
          List.cons_append]

/-- Settles O18: from an empty ring nothing precedes the accepted bytes, and `enqueue` refuses at a count of `CAP - 1`. -/
theorem ringIsFifo : Obligations.RingIsFifo := by
  intro cap calls q h hc hempty
  have hnone : q.held cap = [] := by
    rw [← List.length_eq_zero_iff, held_length]
    exact (count_eq_zero_iff h).2 hempty
  have horder := held_fifoRun calls h hc
  rw [hnone, List.nil_append] at horder
  refine ⟨_, horder, rfl, fun b => ?_⟩
  rw [held_length]
  exact enqueue_eq_none_iff (ringOk_fifoRun calls h hc)

end

end Sys2Proof.Machine

/-! PROOF. No step from a state with the invariant faults (O45). Only `Main` advances the receive ring, and under the invariant
each of its steps completes; every other part of a step completes or is refused. -/
namespace Sys2Proof.Machine

section
variable {s : State}

/-! ## The steps of `Main` complete -/

/-- A framing error is found only behind a whole sync, which can therefore be dropped (R97). -/
theorem four_le_of_framingError {n : Nat} {bytes : List Byte} {r : Reject} (hp : parseFrame n bytes = .error r)
    (hr : isFramingError r = true) : 4 ≤ bytes.length := by
  unfold parseFrame at hp
  split at hp
  next =>
    simp only [List.length_cons]
    omega
  next =>
    obtain rfl := Except.error.inj hp
    cases hr

/-- The scanner completes: the noise is no longer than what is held, and a sync dropped after it is held too (R95, R97). -/
theorem Invariant.scanFrame_completes (h : Invariant s) : ∃ t, scanFrame s = .next t := by
  have hnoise : noiseLen s.rxHeld ≤ s.rx.count s.params.rxCap := by simpa using noiseLen_le s.rxHeld
  have hrest := count_advance h.rx (paramBounds_of_ok h.params).rxUpper (advance_of_le hnoise)
  rw [← rxHeld_length, ← List.length_drop] at hrest
  simp only [scanFrame, advanceRx_of_le hnoise, thenNext_next]
  split
  next => exact ⟨_, rfl⟩
  next r hparse =>
    split
    next hframing =>
      rw [advanceRx_of_le (hrest ▸ four_le_of_framingError hparse hframing)]
      exact ⟨_, rfl⟩
    next => exact ⟨_, rfl⟩

/-- The dispatcher completes on a frame that is held (R170). -/
theorem FrameHeld.dispatchFrame_completes (h : FrameHeld s) : ∃ t, dispatchFrame s = .next t := by
  simp only [dispatchFrame, h.buffered, if_true]
  split
  next i _ =>
    obtain ⟨t, ht, -⟩ := exec_frame i { s with micro := .remove }
    exact ⟨t, ht⟩
  next => exact ⟨_, rfl⟩

/-- The removal completes on a frame that is held (R100). -/
theorem FrameHeld.removeFrame_completes (h : FrameHeld s) : ∃ t, removeFrame s = .next t := by
  rw [removeFrame, advanceRx_of_le h.buffered]
  exact ⟨_, rfl⟩

/-- A phase step completes (R236). -/
theorem Invariant.phaseStep_completes (h : Invariant s) : ∃ t, phaseStep s = .next t := by
  unfold phaseStep
  split
  next => exact h.scanFrame_completes
  next => exact ⟨_, rfl⟩
  next => exact ⟨_, rfl⟩

/-- Every step of `Main` completes: past the scanner the frame is in the ring (R99). -/
theorem Invariant.mainStep_completes (h : Invariant s) : ∃ t, mainStep s = .next t := by
  unfold mainStep
  split
  next => exact ⟨_, rfl⟩
  next => exact ⟨_, rfl⟩
  next => exact ⟨_, rfl⟩
  next => exact ⟨_, rfl⟩
  next =>
    split
    next => exact h.phaseStep_completes
    next hm => exact (h.held (by simp [hm])).dispatchFrame_completes
    next kind taken _ =>
      obtain ⟨m, hm, -⟩ := snapshotStep_cases kind taken s
      exact ⟨_, hm⟩
    next response _ =>
      obtain ⟨t, ht, -⟩ := exec_frame response { s with micro := .remove }
      exact ⟨t, ht⟩
    next hm => exact (h.held (by simp [hm])).removeFrame_completes

/-! ## Agents, events and the schedule -/

/-- Letting any agent step completes. -/
theorem runAgent_completes (h : Invariant s) (a : Agent) : ∃ t, runAgent a s = .next t := by
  cases hen : enabled a s with
  | false => exact ⟨s, runAgent_disabled hen⟩
  | true =>
    rw [runAgent_enabled hen]
    cases a with
    | main => exact h.mainStep_completes
    | _ => exact ⟨_, rfl⟩

/-- A step that completes does not fault. -/
theorem ne_fault_of_next {o : Host.Outcome State Fault Refusal} {t : State} {f : Fault} (h : o = .next t) :
    o ≠ .fault f := by
  rw [h]
  exact nofun

/-- A tick that arrives is latched, discarded or refused (R29, R230, U7). -/
theorem arriveTick_ne_fault (f : Fault) (s : State) : arriveTick s ≠ .fault f := by
  unfold arriveTick
  split_ifs <;> exact nofun

/-- So is a count, which is also refused when out of range (R11, U9). -/
theorem arriveConv_ne_fault (f : Fault) (raw : Half) (s : State) : arriveConv raw s ≠ .fault f := by
  unfold arriveConv
  split_ifs <;> exact nofun

/-- So is a bus event, one of two of which is lost after a bus-level error (U5). -/
theorem arriveBus_ne_fault (f : Fault) (e : BusEvent) (s : State) : arriveBus e s ≠ .fault f := by
  unfold arriveBus
  split
  · exact nofun
  · split
    · exact nofun
    · split <;> exact nofun

/-- What one input does is no fault. -/
theorem applyInput_ne_fault (h : Invariant s) (i : Input) (f : Fault) : applyInput i s ≠ .fault f := by
  cases i with
  | tick => exact arriveTick_ne_fault f s
  | conv raw => exact arriveConv_ne_fault f raw s
  | bus e => exact arriveBus_ne_fault f e s
  | probe active => exact ne_fault_of_next rfl
  | assertReset => exact ne_fault_of_next rfl
  | releaseReset => exact ne_fault_of_next rfl
  | run a =>
    obtain ⟨t, ht⟩ := runAgent_completes h a
    exact ne_fault_of_next ht

/-- The schedule completes: it lets one agent step or nobody (R212). -/
theorem Invariant.freeSchedule_completes (h : Invariant s) : ∃ t, freeSchedule s = .next t := by
  obtain ⟨-, he⟩ | ⟨a, -, he | he⟩ := freeSchedule_cases s
  · exact ⟨s, he⟩
  · rw [he]
    exact runAgent_completes h a
  · rw [he]
    exact runAgent_completes (h.environment s.rst s.probeActive s.inputs (s.draws + 1)) a

end

/-- Settles O45: a step applies an input, which is no fault, or follows the schedule, which completes. -/
theorem invariantExcludesFaults : Obligations.InvariantExcludesFaults := by
  intro s f h
  cases hi : s.inputs with
  | cons i rest =>
    rw [step_input h.params hi]
    exact applyInput_ne_fault (h.environment s.rst s.probeActive rest s.draws) i f
  | nil =>
    obtain ⟨t, ht⟩ := h.freeSchedule_completes
    rw [step_schedule h.params hi]
    exact ne_fault_of_next ht

end Sys2Proof.Machine

/-! PROOF. Damage to a frame (O6): every byte but the length byte is covered by the sync or by the checksum (R61, R63). -/
namespace Sys2Proof

/-- Writing one byte changes the xor of a sequence unless the byte stood there (R63). -/
theorem getElem?_of_xorAll_set {xs : List Byte} {k : Nat} {b : Byte} (hk : k < xs.length)
    (h : xorAll (xs.set k b) = xorAll xs) : xs[k]? = some b := by
  induction xs generalizing k with
  | nil => cases hk
  | cons x xs ih =>
    cases k with
    | zero => exact congrArg some ((BitVec.xor_left_inj _).1 h).symm
    | succ k => exact ih (Nat.lt_of_succ_lt_succ hk) ((BitVec.xor_right_inj _).1 h)

section
variable {n k : Nat} {op op' len b : Byte} {P P' : List Byte}

/-- A write among the first four bytes that leaves a good frame writes the sync byte that stood there (R61). -/
theorem GoodFrame.sync_unchanged (h : GoodFrame n ((encodeFrame op P).set k b) op' len P') (hk : k < 4) :
    (encodeFrame op P)[k]? = some b := by
  have hsame : ((encodeFrame op P).set k b).take 4 = (encodeFrame op P).take 4 :=
    h.sync.trans (encodeFrame_take_sync op P).symm
  have hin : k < (encodeFrame op P).length := by
    rw [encodeFrame_length]
    omega
  calc (encodeFrame op P)[k]? = ((encodeFrame op P).take 4)[k]? := (List.getElem?_take_of_lt hk).symm
    _ = (((encodeFrame op P).set k b).take 4)[k]? := by rw [hsame]
    _ = ((encodeFrame op P).set k b)[k]? := List.getElem?_take_of_lt hk
    _ = some b := List.getElem?_set_self hin

/-- The length byte of a frame stays when another byte is written. -/
theorem GoodFrame.len_eq (h : GoodFrame n ((encodeFrame op P).set k b) op' len P') (hk : k ≠ 5) :
    len = BitVec.ofNat 8 (P.length + 2) := by
  have hlen := h.lengthByte
  rw [List.getElem?_set_ne hk, encodeFrame_lengthByte] at hlen
  exact (Option.some.inj hlen).symm

/-- A write behind the sync, not to the length byte, that leaves a good frame writes the byte that stood there: all these
bytes are under the checksum (R63). -/
theorem GoodFrame.checked_unchanged (h : GoodFrame n ((encodeFrame op P).set k b) op' len P') (hP : P.length ≤ 253)
    (hk : k < P.length + 7) (hlen : k ≠ 5) (hsync : 4 ≤ k) : (encodeFrame op P)[k]? = some b := by
  have hcovered : ((encodeFrame op P).set k b).drop 4 = ((encodeFrame op P).drop 4).set (k - 4) b := by
    rw [List.drop_set, if_neg (Nat.not_lt.2 hsync)]
  have hxor : xorAll (((encodeFrame op P).drop 4).set (k - 4) b) = xorAll ((encodeFrame op P).drop 4) := by
    have hsum := h.checksum
    rw [h.len_eq hlen, lengthByte_toNat hP, hcovered, List.take_of_length_le (by simp)] at hsum
    rw [hsum, xorAll_encodeFrame]
  have hin : k - 4 < ((encodeFrame op P).drop 4).length := by
    rw [List.length_drop, encodeFrame_length]
    omega
  have hbyte := getElem?_of_xorAll_set hin hxor
  rwa [List.getElem?_drop, Nat.add_sub_cancel' hsync] at hbyte

end

/-- Settles O6: a good frame after the write would have the same byte at `k`, by the sync or by the checksum. -/
theorem singleByteDamageIsRejected : Obligations.SingleByteDamageIsRejected := by
  rintro op P k b - hP hk hlen hchanged ⟨op', P'⟩ hparse
  obtain ⟨len, hgood⟩ := goodFrame_of_parseFrame hparse
  by_cases hsync : k < 4
  · exact hchanged (hgood.sync_unchanged hsync)
  · exact hchanged (hgood.checked_unchanged hP hk hlen (Nat.not_lt.1 hsync))

end Sys2Proof

/-! PROOF. The scanner (R94 to R97): how much noise it drops (O7, O8), and its step when no good frame is behind the noise (O9,
O10). -/
namespace Sys2Proof.Machine

/-! ## Noise -/

/-- A frame start is five bytes long (R95). -/
theorem five_le_of_frameStart {bytes : List Byte} (h : frameStart bytes = true) : 5 ≤ bytes.length := by
  unfold frameStart at h
  split at h
  · simp only [List.length_cons]
    omega
  · cases h

/-- Nothing is dropped in front of a frame start (R95). -/
theorem noiseLen_of_frameStart {bytes : List Byte} (h : frameStart bytes = true) : noiseLen bytes = 0 := by
  cases bytes with
  | nil => rfl
  | cons b bs => simp [noiseLen, h]

/-- Nothing is dropped of fewer than five bytes (R95). -/
theorem noiseLen_of_short {bytes : List Byte} (h : bytes.length ≤ 4) : noiseLen bytes = 0 := by
  cases bytes with
  | nil => rfl
  | cons b bs => simp [noiseLen, Nat.lt_of_succ_le h]

/-- Of five bytes or more without a frame start at the head the first one is dropped (R95). -/
theorem noiseLen_cons_of_noise {b : Byte} {bs : List Byte} (hlen : 4 ≤ bs.length) (h : frameStart (b :: bs) = false) :
    noiseLen (b :: bs) = noiseLen bs + 1 := by
  simp [noiseLen, h, Nat.not_lt.2 hlen]

/-- Settles O7, by induction on the noise: with a frame start behind it, each of its bytes has four after it. -/
theorem noiseBeforeAFrameStartIsDropped : Obligations.NoiseBeforeAFrameStartIsDropped := by
  intro noise rest hstart hnoise
  induction noise with
  | nil => exact noiseLen_of_frameStart hstart
  | cons b bs ih =>
    have hrest := five_le_of_frameStart hstart
    have hlen : 4 ≤ (bs ++ rest).length := by
      rw [List.length_append]
      omega
    have hhead : frameStart (b :: (bs ++ rest)) = false := hnoise 0 (Nat.zero_lt_succ _)
    have htail := ih fun k hk => hnoise (k + 1) (Nat.succ_lt_succ hk)
    rw [List.cons_append, noiseLen_cons_of_noise hlen hhead, htail, List.length_cons]

/-- Settles O8, by induction on the bytes: one is dropped as long as four stand after it. -/
theorem fourBytesAreKeptOfNoise : Obligations.FourBytesAreKeptOfNoise := by
  intro bytes hnoise
  induction bytes with
  | nil => rfl
  | cons b bs ih =>
    by_cases hlen : 4 ≤ bs.length
    · have hhead : frameStart (b :: bs) = false := hnoise 0 (Nat.zero_lt_succ _)
      have htail := ih fun k hk => hnoise (k + 1) (Nat.succ_lt_succ hk)
      rw [noiseLen_cons_of_noise hlen hhead, htail, List.length_cons]
      omega
    · have hshort : (b :: bs).length ≤ 4 := by
        rw [List.length_cons]
        omega
      rw [noiseLen_of_short hshort, Nat.sub_eq_zero_of_le hshort]

/-! ## The scanner's step without a good frame -/

section
variable {s : State}

/-- At the Scan phase, with nothing of a frame in progress, the step of `Main` is the scanner's (R94, R236). -/
theorem runAgent_main_scan (hready : MainReady s) (hphase : s.phase = .scan) : runAgent .main s = scanFrame s := by
  rw [runAgent_main hready.toMainRuns]
  simp only [mainStep, hready.boot, hready.between, phaseStep, hphase]

/-- `advance` writes no slot and leaves the head alone (R86). -/
theorem advance_keeps {cap n : Nat} {q q' : Ring} (ha : q.advance cap n = some q') :
    q'.head = q.head ∧ q'.storage = q.storage := by
  obtain ⟨-, rfl⟩ := advance_eq_some ha
  exact ⟨rfl, rfl⟩

/-- Behind the noise no good frame: the noise is removed, with the sync of a framing error, and nothing else changes but the
phase (R95 to R97). -/
theorem scan_of_reject {r : Reject} (h : Invariant s) (hready : MainReady s) (hphase : s.phase = .scan)
    (hparse : parseFrame (s.params.rxCap - 1) (s.rxHeld.drop (noiseLen s.rxHeld)) = .error r) :
    ∃ t, runAgent .main s = .next t ∧
      t.rxHeld = s.rxHeld.drop (noiseLen s.rxHeld + if isFramingError r then 4 else 0) ∧
      t.rx.head = s.rx.head ∧ t.rx.storage = s.rx.storage ∧ t = { s with rx := t.rx, phase := .trigger } := by
  have hcap := (paramBounds_of_ok h.params).rxUpper
  obtain ⟨t, ht⟩ := h.scanFrame_completes
  obtain ⟨q, hq, hcases⟩ := scanFrame_eq_next ht
  have hheld : q.held s.params.rxCap = s.rxHeld.drop (noiseLen s.rxHeld) := held_advance h.rx hcap hq
  have hok := ringOk_advance h.rx hcap hq
  obtain ⟨hhead, hstorage⟩ := advance_keeps hq
  refine ⟨t, (runAgent_main_scan hready hphase).trans ht, ?_⟩
  obtain ⟨op, payload, hgood, -⟩ | ⟨r', hr', hreject⟩ := hcases
  · rw [hparse] at hgood
    cases hgood
  obtain rfl : r = r' := Except.error.inj (hparse.symm.trans hr')
  obtain ⟨hwait, rfl⟩ | ⟨hframing, q', hq', rfl⟩ := hreject
  · rw [hwait]
    exact ⟨hheld, hhead, hstorage, rfl⟩
  · obtain ⟨hhead', hstorage'⟩ := advance_keeps hq'
    rw [hframing, if_pos rfl, ← List.drop_drop, ← hheld]
    exact ⟨held_advance hok hcap hq', hhead'.trans hhead, hstorage'.trans hstorage, rfl⟩

/-- Settles O9: the rejection is a framing error, so the sync goes with the noise. -/
theorem framingErrorDropsTheSync : Obligations.FramingErrorDropsTheSync := by
  intro s r h hready hphase hparse hframing
  simpa only [hframing, if_true] using scan_of_reject h hready hphase hparse

/-- The scanner's `advance` by nothing. -/
theorem advanceRx_zero (h : RingOk s.params.rxCap s.rx) : advanceRx 0 s = .next s := by
  rw [advanceRx_of_le (Nat.zero_le _), moveIndex_zero h.tail]

/-- A frame start with no length byte yet, or with a legal one and fewer bytes than it announces, is a frame still arriving
(R96). -/
theorem parseFrame_of_arriving {n : Nat} {bytes : List Byte} (hstart : frameStart bytes = true)
    (harriving : bytes.length = 5 ∨ ∃ len, bytes[5]? = some len ∧ 2 ≤ len.toNat ∧ len.toNat + 5 ≤ n ∧
      bytes.length < len.toNat + 5) : parseFrame n bytes = .error .incomplete := by
  unfold frameStart at hstart
  split at hstart
  next b0 b1 b2 b3 op rest =>
    obtain ⟨hsync, hop⟩ : [b0, b1, b2, b3] = syncBytes ∧ op ≠ 0xAA := by simpa using hstart
    cases rest with
    | nil => simp only [parseFrame, hsync, hop, ne_eq, not_true_eq_false, if_false]
    | cons len body =>
      obtain hfive | ⟨len', hlb, hlow, hhigh, hfew⟩ := harriving
      · simp at hfive
      · obtain rfl : len = len' := Option.some.inj hlb
        have hshort : body.length < len.toNat - 1 := by
          simp only [List.length_cons] at hfew
          omega
        simp only [parseFrame, hsync, hop, Nat.not_lt.2 hlow, Nat.not_lt.2 hhigh, hshort, ne_eq, not_true_eq_false,
          if_false, if_true]
  next => cases hstart

/-- With the frame start at the tail and the frame still arriving, the scanner moves the phase only (R96). -/
theorem scanFrame_of_arriving (h : RingOk s.params.rxCap s.rx) (hstart : frameStart s.rxHeld = true)
    (hparse : parseFrame (s.params.rxCap - 1) s.rxHeld = .error .incomplete) :
    scanFrame s = .next { s with phase := .trigger } := by
  simp [scanFrame, noiseLen_of_frameStart hstart, advanceRx_zero h, hparse, isFramingError]

end

/-- Settles O10: the rejection is no framing error, so the noise goes alone; and in front of a frame start there is none. -/
theorem scannerWaitsForTheRest : Obligations.ScannerWaitsForTheRest := by
  refine ⟨fun s r h hready hphase hparse hwait => ?_, fun s h hready hphase hstart harriving => ?_⟩
  · simpa only [hwait, Bool.false_eq_true, if_false, Nat.add_zero] using scan_of_reject h hready hphase hparse
  · rw [runAgent_main_scan hready hphase]
    exact scanFrame_of_arriving h.rx hstart (parseFrame_of_arriving hstart harriving)

end Sys2Proof.Machine

/-! PROOF. The steps of `Bus` (R90 to R92, O19 to O21), from the rules of the two rings (O14, O15), and the commit of a response
row by the frame builder (O49), from the rule of `enqueueAll` (O17). -/
namespace Sys2Proof.Machine

/-! ## The bus -/

section
variable {s : State}

/-- A pending bus event with nothing in the way is served by the step of `Bus` for it (R29, R213). -/
theorem runAgent_bus {e : BusEvent} (hrst : s.rst = false) (hmask : s.intMask = false) (hsound : s.busErr = false)
    (hpend : s.pendBus = some e) : runAgent .bus s = .next (busStep e { s with pendBus := none }) := by
  have hen : enabled .bus s = true := enabled_bus_iff.2 ⟨hrst, by simp [hpend], hmask⟩
  rw [runAgent_enabled hen]
  simp [agentStep, tryBus, hsound, serveBus, hpend, takeInterrupt, returnFromInterrupt]

/-- After a bus-level error the free value decides whether `Bus` serves the pending event (U5, log 9). -/
theorem runAgent_bus_after_error (hrst : s.rst = false) (hmask : s.intMask = false) (herr : s.busErr = true)
    (hpend : s.pendBus.isSome = true) :
    runAgent .bus s = .next (if Config.freeBool s.draws then serveBus { s with draws := s.draws + 1 }
      else { s with draws := s.draws + 1 }) := by
  have hen : enabled .bus s = true := enabled_bus_iff.2 ⟨hrst, Option.isSome_iff_ne_none.1 hpend, hmask⟩
  rw [runAgent_enabled hen]
  simp [agentStep, tryBus, herr]

/-- A byte with room for it is received (R90). -/
theorem busReceive_of_some {b : Byte} {q : Ring} (he : s.rx.enqueue s.params.rxCap b = some q) :
    busReceive b s = { s with rx := q } := by
  simp only [busReceive, he]

/-- A byte without room is lost without a trace (R90). -/
theorem busReceive_of_none {b : Byte} (he : s.rx.enqueue s.params.rxCap b = none) : busReceive b s = s := by
  simp only [busReceive, he]

/-- A byte held is sent and removed (R91). -/
theorem busTransmit_of_some {b : Byte} {q : Ring} (hd : s.tx.dequeue s.params.txCap = some (b, q)) :
    busTransmit s = { s with tx := q, busRead := s.busRead ++ [b] } := by
  simp only [busTransmit, hd]

/-- With none held the filler is sent (R91). -/
theorem busTransmit_of_none (hd : s.tx.dequeue s.params.txCap = none) :
    busTransmit s = { s with busRead := s.busRead ++ [0x00] } := by
  simp only [busTransmit, hd, fillerByte]

end

/-- Settles O19: the byte is appended or dropped as `enqueue` does (O14). -/
theorem busReceiveAppendsOrDrops : Obligations.BusReceiveAppendsOrDrops := by
  intro s b h hrst hmask hsound hpend
  obtain ⟨hdrop, happend⟩ := enqueueAppendsOrDrops s.params.rxCap s.rx b h.rx (paramBounds_of_ok h.params).rxUpper
  rw [← rxHeld_length] at hdrop happend
  have hle : s.rxHeld.length ≤ s.params.rxCap - 1 := by
    rw [rxHeld_length]
    exact count_le_pred h.rx
  rw [runAgent_bus hrst hmask hsound hpend, busStep]
  obtain hfull | hroom := hle.eq_or_lt
  · refine ⟨_, rfl, ?_⟩
    rw [busReceive_of_none (s := { s with pendBus := none }) (hdrop hfull)]
    exact ⟨rfl, fun _ => rfl, fun hroom => absurd hfull hroom.ne⟩
  · obtain ⟨q, he, -, hheld, htail, -, -⟩ := happend hroom
    refine ⟨_, rfl, ?_⟩
    rw [busReceive_of_some (s := { s with pendBus := none }) he]
    exact ⟨rfl, fun hfull => absurd hfull hroom.ne, fun _ => ⟨hheld, htail⟩⟩

/-- Settles O20: the byte is taken, or none is there, as `dequeue` does (O15). -/
theorem busTransmitSendsOldestOrFiller : Obligations.BusTransmitSendsOldestOrFiller := by
  intro s h hrst hmask hsound hpend
  have htake := dequeueTakesTheOldest s.params.txCap s.tx h.tx (paramBounds_of_ok h.params).txUpper
  refine ⟨_, runAgent_bus hrst hmask hsound hpend, ?_⟩
  rw [busStep, State.txHeld]
  cases hheld : s.tx.held s.params.txCap with
  | nil =>
    rw [hheld] at htake
    rw [busTransmit_of_none (s := { s with pendBus := none }) htake]
    exact ⟨rfl, rfl, rfl⟩
  | cons b rest =>
    rw [hheld] at htake
    obtain ⟨q, hd, -, hrest, hhead, -⟩ := htake
    rw [busTransmit_of_some (s := { s with pendBus := none }) hd]
    exact ⟨rfl, rfl, hrest, hhead⟩

/-- Settles O21: a bus error is served like any event; after it the free value decides. -/
theorem busErrorLeavesTheBlockAlone : Obligations.BusErrorLeavesTheBlockAlone := by
  refine ⟨fun s hrst hmask hsound hpend => runAgent_bus hrst hmask hsound hpend, fun s hrst hmask herr hpend => ?_⟩
  rw [runAgent_bus_after_error hrst hmask herr hpend]
  cases Config.freeBool s.draws with
  | false => exact .inl rfl
  | true => exact .inr rfl

/-! ## The frame builder -/

/-- Settles O49: a row's meaning is the commit of its frame, which is `enqueueAll` when the frame fits (O17). -/
theorem responseRowsCommitWholeOrNothing : Obligations.ResponseRowsCommitWholeOrNothing := by
  refine ⟨fun i s hresp htx hcap => ⟨fun hfit => ?_, exec_response_of_full hresp⟩,
    fun i s hruns hmicro => runAgent_main_build hruns hmicro⟩
  obtain ⟨q, he, hok, hheld, htail, -, hother⟩ :=
    enqueueAllCommitsTheWhole s.params.txCap s.tx (encode i) htx hcap hfit
  have hexec : exec i s = .next { s with tx := q } := by
    rw [exec_response hresp, buildFrame, ← encode, he]
  exact ⟨_, hexec, hheld, rfl, htail, hok, hother⟩

end Sys2Proof.Machine

/-! PROOF. The conversion (O24, O25, O27): what `convComplete` does to each channel and to the calibration's counters, said
once for each mode (R110 to R121). -/
namespace Sys2Proof.Machine

/-- What an Armed sample makes of its channel's registers (R111, R115, R116). -/
def armedChannel (alpha : F32) (raw : Half) (x : Channel) : Channel :=
  { rawSample := raw
    average := filterStep x.average alpha raw
    deviation := deviationOf (filterStep x.average alpha raw) x.centerline
    centerline := x.centerline }

/-- What a Calibrating sample makes of its channel's registers (R111, R118). -/
def summedChannel (raw : Half) (x : Channel) : Channel :=
  { x with rawSample := raw, centerline := fadd x.centerline (u2f raw.toNat) }

/-- What the finalisation makes of a channel's registers (R120). -/
def dividedChannel (count : Word) (x : Channel) : Channel :=
  { x with centerline := fdiv x.centerline (u2f count.toNat) }

section
variable {s t : State}

/-- A channel reads the channel file only. -/
theorem chan_congr (h : t.ch = s.ch) (c : BitVec 2) : t.chan c = s.chan c := by
  simp only [State.chan, h]

/-- After a write to channel `c` that channel reads as written and every other as before. -/
theorem chan_setChan (s : State) (c d : BitVec 2) (x : Channel) :
    (s.setChan c x).chan d = if d = c then x else s.chan d := by
  split
  next hd => rw [hd, chan_setChan_self]
  next hd => exact chan_setChan_other s c d x (Ne.symm hd)

/-- A sample taken changes the raw sample of its channel only (R111). -/
theorem chan_takeSample (raw : Half) (s : State) (d : BitVec 2) :
    (takeSample raw s).chan d = if d = s.chanIdx then { s.chan d with rawSample := raw } else s.chan d := by
  refine (chan_setChan s s.chanIdx d _).trans ?_
  split
  next hd => rw [hd]
  next => rfl

/-! ## Armed mode -/

/-- A conversion in Armed mode (R110). -/
theorem convComplete_of_armed (raw : Half) (h : s.calRemaining = 0) :
    convComplete raw s = armedSample s.chanIdx raw (takeSample raw s) := by
  simp only [convComplete, h, if_true]

/-- An Armed sample writes its channel and no other (R111, R115, R116). -/
theorem chan_convComplete_of_armed (raw : Half) (h : s.calRemaining = 0) (d : BitVec 2) :
    (convComplete raw s).chan d =
      if d = s.chanIdx then armedChannel s.settings.filterAlpha raw (s.chan d) else s.chan d := by
  rw [convComplete_of_armed raw h]
  refine (chan_setChan (takeSample raw s) s.chanIdx d _).trans ?_
  rw [chan_takeSample, chan_takeSample]
  split
  next hd =>
    rw [if_pos rfl, hd]
    rfl
  next => rfl

/-- Armed mode sets the flag when the new deviation exceeds the threshold, and never clears it (R117). -/
theorem triggered_convComplete_of_armed (raw : Half) (h : s.calRemaining = 0) :
    (convComplete raw s).triggered = (s.triggered || exceedsThreshold
      (armedChannel s.settings.filterAlpha raw (s.chan s.chanIdx)).deviation s.settings.thresholdFactor) := by
  rw [convComplete_of_armed raw h]
  simp only [armedSample, chan_takeSample, if_true]
  rfl

/-! ## Calibrating mode -/

/-- A conversion in Calibrating mode (R110). -/
theorem convComplete_of_calibrating (raw : Half) (h : s.calRemaining ≠ 0) :
    convComplete raw s = calibratingSample s.chanIdx raw (takeSample raw s) := by
  simp only [convComplete, h, if_false]

/-- Accumulation and counting, with the count that is left (R118, R119). -/
def countedSample (c : BitVec 2) (raw : Half) (left : Word) (s : State) : State :=
  { s.setChan c { s.chan c with centerline := fadd (s.chan c).centerline (u2f raw.toNat) } with
    calCycle := s.calCycle + 1
    calRemaining := left }

/-- How many samples are left after one more of the cycle (R119). -/
def leftAfter (s : State) : Word := if s.calCycle = 3 then s.calRemaining - 1 else s.calRemaining

/-- The fourth sample of the last cycle divides all four sums, every other sample is only counted (R119, R120). -/
theorem calibratingSample_eq (c : BitVec 2) (raw : Half) (s : State) :
    calibratingSample c raw s =
      if s.calCycle = 3 ∧ s.calRemaining = 1 then finalizeCenterlines (countedSample c raw (leftAfter s) s)
      else countedSample c raw (leftAfter s) s := by
  have hlast : s.calRemaining - 1 = 0 ↔ s.calRemaining = 1 := by bv_omega
  have hnested : calibratingSample c raw s =
      if s.calCycle + 1 = 0 then
        if s.calRemaining - 1 = 0 then finalizeCenterlines (countedSample c raw (s.calRemaining - 1) s)
        else countedSample c raw (s.calRemaining - 1) s
      else countedSample c raw s.calRemaining s := rfl
  by_cases hfourth : s.calCycle = 3
  · have hwraps : s.calCycle + 1 = 0 := by bv_omega
    rw [hnested, if_pos hwraps]
    simp only [leftAfter, hlast, hfourth, if_true, true_and]
  · have hcounts : s.calCycle + 1 ≠ 0 := by bv_omega
    rw [hnested, if_neg hcounts]
    simp only [leftAfter, hfourth, if_false, false_and]

/-- Before any finalisation a Calibrating sample writes its channel and no other (R111, R118). -/
theorem chan_countedSample (raw : Half) (left : Word) (s : State) (d : BitVec 2) :
    (countedSample s.chanIdx raw left (takeSample raw s)).chan d =
      if d = s.chanIdx then summedChannel raw (s.chan d) else s.chan d := by
  refine (chan_setChan (takeSample raw s) s.chanIdx d _).trans ?_
  rw [chan_takeSample, chan_takeSample]
  split
  next hd =>
    rw [if_pos rfl, hd]
    rfl
  next => rfl

/-- A Calibrating sample adds to its channel's sum, and the last one divides all four (R118, R120). -/
theorem chan_convComplete_of_calibrating (raw : Half) (h : s.calRemaining ≠ 0) (d : BitVec 2) :
    (convComplete raw s).chan d =
      if s.calCycle = 3 ∧ s.calRemaining = 1 then
        dividedChannel s.settings.calibrationSampleCount
          (if d = s.chanIdx then summedChannel raw (s.chan d) else s.chan d)
      else if d = s.chanIdx then summedChannel raw (s.chan d) else s.chan d := by
  rw [convComplete_of_calibrating raw h, calibratingSample_eq, ← chan_countedSample raw (leftAfter s)]
  split
  next hend =>
    rw [if_pos (c := s.calCycle = 3 ∧ s.calRemaining = 1) hend]
    exact chan_mapChannels _ (dividedChannel s.settings.calibrationSampleCount) d
  next hmore => rw [if_neg (c := s.calCycle = 3 ∧ s.calRemaining = 1) hmore]; rfl

/-- A Calibrating sample counts, leaves the flag alone and leaves everything outside the acquisition alone (R118, R119). -/
theorem counters_convComplete_of_calibrating (raw : Half) (h : s.calRemaining ≠ 0) :
    (convComplete raw s).calCycle = s.calCycle + 1 ∧ (convComplete raw s).calRemaining = leftAfter s ∧
      (convComplete raw s).triggered = s.triggered := by
  rw [convComplete_of_calibrating raw h, calibratingSample_eq]
  split
  · exact ⟨rfl, rfl, rfl⟩
  · exact ⟨rfl, rfl, rfl⟩

/-! ## Either mode -/

/-- In both modes the round robin advances and the sampler is armed two ahead (R112). -/
theorem indices_convComplete (raw : Half) (s : State) :
    (convComplete raw s).chanIdx = s.chanIdx + 1 ∧ (convComplete raw s).muxSel = s.chanIdx + 2 := by
  by_cases h : s.calRemaining = 0
  · rw [convComplete_of_armed raw h]
    exact ⟨rfl, rfl⟩
  · rw [convComplete_of_calibrating raw h, calibratingSample_eq]
    split
    · exact ⟨rfl, rfl⟩
    · exact ⟨rfl, rfl⟩

/-- In both modes a channel that is not sampled keeps its sample, its average and its deviation (R111, R121). -/
theorem convComplete_keeps_other (raw : Half) (s : State) {d : BitVec 2} (hd : d ≠ s.chanIdx) :
    ((convComplete raw s).chan d).rawSample = (s.chan d).rawSample ∧
      ((convComplete raw s).chan d).average = (s.chan d).average ∧
      ((convComplete raw s).chan d).deviation = (s.chan d).deviation := by
  by_cases h : s.calRemaining = 0
  · rw [chan_convComplete_of_armed raw h, if_neg hd]
    exact ⟨rfl, rfl, rfl⟩
  · rw [chan_convComplete_of_calibrating raw h, if_neg hd]
    split
    · exact ⟨rfl, rfl, rfl⟩
    · exact ⟨rfl, rfl, rfl⟩

/-- A pending conversion that is not masked is served (R29, R110). -/
theorem runAgent_conv {raw : Half} (hrst : s.rst = false) (hmask : s.intMask = false) (hpend : s.pendConv = some raw) :
    runAgent .conv s = .next (convComplete raw { s with pendConv := none }) := by
  rw [runAgent_enabled (enabled_conv_iff.2 ⟨hrst, by simp [hpend], hmask⟩)]
  simp only [agentStep, serveConv, hpend, takeInterrupt, returnFromInterrupt]

end

/-- Settles O24: the channel sampled, the indices and the frame of the conversion, from the state with the latch cleared. -/
theorem conversionStoresAndAdvances : Obligations.ConversionStoresAndAdvances := by
  intro s raw hrst hmask hpend
  have hframe := (convComplete_frame raw { s with pendConv := none }).1
  have hsample := rawSample_convComplete raw { s with pendConv := none } s.chanIdx
  obtain ⟨hidx, hmux⟩ := indices_convComplete raw { s with pendConv := none }
  refine ⟨_, runAgent_conv hrst hmask hpend, rfl, (congrArg State.pendConv hframe :), hsample.trans (if_pos rfl), ?_, ?_,
    fun d hd => convComplete_keeps_other raw { s with pendConv := none } hd, hframe⟩
  · rw [hidx]
    exact BitVec.toNat_add _ _
  · rw [hmux]
    exact BitVec.toNat_add _ _

/-- Settles O25: the registers of the channel sampled and of the others, the flag, and the counters. -/
theorem armedSampleFiltersAndTests : Obligations.ArmedSampleFiltersAndTests := by
  intro s raw h
  have hchan := chan_convComplete_of_armed raw h
  have hself := (hchan s.chanIdx).trans (if_pos rfl)
  refine ⟨?_, ?_, ?_, fun d => ?_, ?_, ?_⟩
  · simp only [hself]
    rfl
  · simp only [hself]
    rfl
  · rw [triggered_convComplete_of_armed raw h, Bool.or_eq_true, hself]
    rfl
  · rw [hchan]
    split
    · rfl
    · rfl
  · rw [convComplete_of_armed raw h]
    exact h
  · rw [convComplete_of_armed raw h]
    rfl

/-- Settles O27: the registers of every channel and the counters, at the sample that ends the calibration and at any
other. -/
theorem calibrationFreezesTheFilter : Obligations.CalibrationFreezesTheFilter := by
  intro s raw h
  have hchan := chan_convComplete_of_calibrating raw h
  obtain ⟨hcycle, hleft, hflag⟩ := counters_convComplete_of_calibrating raw h
  refine ⟨hflag, fun c => ?_, ?_, hleft, fun c => ?_⟩
  · rw [hchan]
    split_ifs
    · exact ⟨rfl, rfl⟩
    · exact ⟨rfl, rfl⟩
    · exact ⟨rfl, rfl⟩
    · exact ⟨rfl, rfl⟩
  · rw [hcycle]
    exact BitVec.toNat_add _ _
  · rw [hchan]
    dsimp only
    split_ifs
    · rfl
    · rfl
    · rfl
    · rfl

end Sys2Proof.Machine

/-! PROOF. The binary32 arithmetic on finite values that are not negative (R114), and the filter at the ends of the coefficient's
range (O26): rounding is exact on the values of the format and monotone, and each operation is the rounding of the exact
result. -/
namespace Sys2Proof.Machine

/-! ## Rounding to an integer -/

/-- A whole quotient is not rounded. -/
theorem roundHalfEven_mul (n : Nat) {q : Nat} (hq : 0 < q) : roundHalfEven (n * q) q = n := by
  simp only [roundHalfEven, Nat.mul_div_cancel n hq, Nat.mul_mod_left]
  rw [if_neg (by omega)]

theorem div_le_roundHalfEven (p q : Nat) : p / q ≤ roundHalfEven p q := by
  simp only [roundHalfEven]
  split <;> omega

theorem roundHalfEven_le_succ (p q : Nat) : roundHalfEven p q ≤ p / q + 1 := by
  simp only [roundHalfEven]
  split <;> omega

section
variable {p q p' q' : Nat}

/-- Fractions in order have their integer parts in order. -/
theorem div_le_div_of_cross (hq : 0 < q) (hq' : 0 < q') (h : p * q' ≤ p' * q) : p / q ≤ p' / q' := by
  rw [Nat.le_div_iff_mul_le hq']
  refine Nat.le_of_mul_le_mul_right ?_ hq
  calc p / q * q' * q = p / q * q * q' := by ring
    _ ≤ p * q' := Nat.mul_le_mul_right q' (Nat.div_mul_le_self p q)
    _ ≤ p' * q := h

/-- Rounding to an integer is monotone: with equal integer parts the remainders are in order, and the tie goes the same
way. -/
theorem roundHalfEven_mono (hq : 0 < q) (hq' : 0 < q') (h : p * q' ≤ p' * q) :
    roundHalfEven p q ≤ roundHalfEven p' q' := by
  obtain hlt | heq := (div_le_div_of_cross hq hq' h).lt_or_eq
  · calc roundHalfEven p q ≤ p / q + 1 := roundHalfEven_le_succ p q
      _ ≤ p' / q' := hlt
      _ ≤ roundHalfEven p' q' := div_le_roundHalfEven p' q'
  · have hrest : p % q * q' ≤ p' % q' * q := by
      have hp := Nat.div_add_mod p q
      have hp' := Nat.div_add_mod p' q'
      rw [← hp, ← hp', heq] at h
      nlinarith
    have hover : q < 2 * (p % q) → q' < 2 * (p' % q') := fun hr => by
      refine lt_of_mul_lt_mul_right ?_ (Nat.zero_le q)
      nlinarith
    have htie : 2 * (p % q) = q → q' ≤ 2 * (p' % q') := fun hr => by
      refine le_of_mul_le_mul_right ?_ hq
      nlinarith
    simp only [roundHalfEven, heq]
    split_ifs <;> omega

/-! ## Rounding to a magnitude -/

/-- The exponent of the significand, in units, before rounding. -/
def roundExp (p q : Nat) : Nat := Nat.log2 (p / q) - 23

theorem roundMag_eq (p q : Nat) :
    roundMag p q = min (roundExp p q * 2 ^ 23 + roundHalfEven p (q * 2 ^ roundExp p q)) f32InfMag := rfl

/-- Over the exponent at most 24 bits are left. -/
theorem lt_two_pow_roundExp (p q : Nat) : p / q < 2 ^ (roundExp p q + 24) := by
  by_cases hx : p / q = 0
  · rw [hx]
    exact Nat.two_pow_pos _
  · refine (Nat.log2_lt hx).1 ?_
    rw [roundExp]
    omega

/-- Over the exponent 24 bits are left, unless it is the smallest. -/
theorem two_pow_roundExp_le (p q : Nat) : roundExp p q = 0 ∨ 2 ^ (roundExp p q + 23) ≤ p / q := by
  by_cases hx : p / q = 0
  · exact .inl (by rw [roundExp, hx, Nat.log2_zero])
  · by_cases he : roundExp p q = 0
    · exact .inl he
    · refine .inr ((Nat.le_log2 hx).1 ?_)
      rw [roundExp] at he ⊢
      omega

/-- An exponent that leaves 24 bits is at most one that leaves no more. -/
theorem exp_le_exp {x e e' : Nat} (h : e = 0 ∨ 2 ^ (e + 23) ≤ x) (h' : x < 2 ^ (e' + 24)) : e ≤ e' := by
  obtain rfl | h := h
  · exact Nat.zero_le e'
  · have := (Nat.pow_lt_pow_iff_right Nat.one_lt_two).1 (h.trans_lt h')
    omega

/-- A value with a significand of at most 24 bits, exactly 24 unless the exponent is the smallest, is its own rounding. -/
theorem roundMag_significand {e m : Nat} (hm : m < 2 ^ 24) (hnormal : e = 0 ∨ 2 ^ 23 ≤ m) (hq : 0 < q) :
    roundMag (m * 2 ^ e * q) q = min (e * 2 ^ 23 + m) f32InfMag := by
  have hvalue : m * 2 ^ e * q / q = m * 2 ^ e := Nat.mul_div_cancel _ hq
  have hbelow : m * 2 ^ e < 2 ^ (e + 24) := by
    rw [Nat.pow_add, Nat.mul_comm m]
    exact Nat.mul_lt_mul_of_pos_left hm (Nat.two_pow_pos e)
  have habove : e = 0 ∨ 2 ^ (e + 23) ≤ m * 2 ^ e := by
    refine hnormal.imp_right fun hm => ?_
    rw [Nat.pow_add, Nat.mul_comm m]
    exact Nat.mul_le_mul_left _ hm
  have hexp : roundExp (m * 2 ^ e * q) q = e := by
    have hlower := lt_two_pow_roundExp (m * 2 ^ e * q) q
    have hupper := two_pow_roundExp_le (m * 2 ^ e * q) q
    rw [hvalue] at hlower hupper
    exact Nat.le_antisymm (exp_le_exp hupper hbelow) (exp_le_exp habove hlower)
  have hshift : m * 2 ^ e * q = m * (q * 2 ^ e) := by ring
  rw [roundMag_eq, hexp, hshift, roundHalfEven_mul m (Nat.mul_pos hq (Nat.two_pow_pos e))]

/-- The significand after rounding has at most one bit too many. -/
theorem roundHalfEven_le_two_pow (p q : Nat) : roundHalfEven p (q * 2 ^ roundExp p q) ≤ 2 ^ 24 := by
  refine (roundHalfEven_le_succ p _).trans (Nat.succ_le_of_lt ?_)
  rw [← Nat.div_div_eq_div_mul, Nat.div_lt_iff_lt_mul (Nat.two_pow_pos _), ← Nat.pow_add, Nat.add_comm]
  exact lt_two_pow_roundExp p q

/-- The significand after rounding has at least 24 bits, unless the exponent is the smallest. -/
theorem two_pow_le_roundHalfEven {p q : Nat} (h : roundExp p q ≠ 0) :
    2 ^ 23 ≤ roundHalfEven p (q * 2 ^ roundExp p q) := by
  refine le_trans ?_ (div_le_roundHalfEven p _)
  rw [← Nat.div_div_eq_div_mul, Nat.le_div_iff_mul_le (Nat.two_pow_pos _), ← Nat.pow_add, Nat.add_comm]
  exact (two_pow_roundExp_le p q).resolve_left h

/-- Rounding is monotone: with equal exponents the significands are in order, and the significand that carries reaches only the
next exponent. -/
theorem roundMag_mono (hq : 0 < q) (hq' : 0 < q') (h : p * q' ≤ p' * q) : roundMag p q ≤ roundMag p' q' := by
  have hexp : roundExp p q ≤ roundExp p' q' :=
    exp_le_exp ((two_pow_roundExp_le p q).imp_right fun hx => hx.trans (div_le_div_of_cross hq hq' h))
      (lt_two_pow_roundExp p' q')
  rw [roundMag_eq, roundMag_eq]
  refine min_le_min_right f32InfMag ?_
  obtain hlt | heq := hexp.lt_or_eq
  · have hcarry := roundHalfEven_le_two_pow p q
    have hnormal := two_pow_le_roundHalfEven (p := p') (q := q') (by omega)
    omega
  · rw [heq]
    refine Nat.add_le_add_left (roundHalfEven_mono ?_ ?_ ?_) _
    · exact Nat.mul_pos hq (Nat.two_pow_pos _)
    · exact Nat.mul_pos hq' (Nat.two_pow_pos _)
    · calc p * (q' * 2 ^ roundExp p' q') = p * q' * 2 ^ roundExp p' q' := by ring
        _ ≤ p' * q * 2 ^ roundExp p' q' := Nat.mul_le_mul_right _ h
        _ = p' * (q * 2 ^ roundExp p' q') := by ring

/-- Equal fractions are rounded alike. -/
theorem roundMag_congr (hq : 0 < q) (hq' : 0 < q') (h : p * q' = p' * q) : roundMag p q = roundMag p' q' :=
  Nat.le_antisymm (roundMag_mono hq hq' h.le) (roundMag_mono hq' hq h.ge)

/-! ## Magnitudes and their values -/

/-- The value of a magnitude of 31 bits, in units: `f32Units` of a pattern with these bits. -/
def magUnits (m : Nat) : Nat := if m / 2 ^ 23 = 0 then m % 2 ^ 23 else (2 ^ 23 + m % 2 ^ 23) * 2 ^ (m / 2 ^ 23 - 1)

theorem f32Units_eq (a : F32) : f32Units a = magUnits (f32Mag a) := rfl

/-- A magnitude is an exponent and a significand of at most 24 bits, exactly 24 unless the exponent is the smallest. -/
theorem magUnits_significand (m : Nat) :
    ∃ e s, s < 2 ^ 24 ∧ (e = 0 ∨ 2 ^ 23 ≤ s) ∧ m = e * 2 ^ 23 + s ∧ magUnits m = s * 2 ^ e := by
  have hsplit := Nat.div_add_mod m (2 ^ 23)
  have hfrac := Nat.mod_lt m (Nat.two_pow_pos 23)
  by_cases he : m / 2 ^ 23 = 0
  · refine ⟨0, m % 2 ^ 23, by omega, .inl rfl, by omega, ?_⟩
    rw [magUnits, if_pos he, Nat.pow_zero, Nat.mul_one]
  · refine ⟨m / 2 ^ 23 - 1, 2 ^ 23 + m % 2 ^ 23, by omega, .inr (by omega), by omega, ?_⟩
    rw [magUnits, if_neg he]

/-- An exponent and such a significand determine the magnitude's value. -/
theorem magUnits_of_significand {e s : Nat} (hs : s < 2 ^ 24) (hnormal : e = 0 ∨ 2 ^ 23 ≤ s) :
    magUnits (e * 2 ^ 23 + s) = s * 2 ^ e := by
  obtain ⟨e', s', hs', hnormal', hm, hunits⟩ := magUnits_significand (e * 2 ^ 23 + s)
  obtain ⟨rfl, rfl⟩ : e = e' ∧ s = s' := by omega
  exact hunits

/-- The value of a magnitude, up to infinity's, is rounded to it. -/
theorem roundMag_magUnits {m : Nat} (hm : m ≤ f32InfMag) (hq : 0 < q) : roundMag (magUnits m * q) q = m := by
  obtain ⟨e, s, hs, hnormal, rfl, hunits⟩ := magUnits_significand m
  rw [hunits, roundMag_significand hs hnormal hq, Nat.min_eq_left hm]

/-- A fraction of at most the value of `m` is rounded to at most `m`. -/
theorem roundMag_le {m : Nat} (hm : m ≤ f32InfMag) (hq : 0 < q) (h : p ≤ magUnits m * q) : roundMag p q ≤ m := by
  rw [← roundMag_magUnits hm hq]
  exact roundMag_mono hq hq (Nat.mul_le_mul_right q h)

/-- Values are in the order of their magnitudes. -/
theorem magUnits_mono {m m' : Nat} (hm : m' ≤ f32InfMag) (h : m ≤ m') : magUnits m ≤ magUnits m' := by
  by_contra hlt
  have hback : roundMag (magUnits m' * 1) 1 ≤ m :=
    roundMag_le (h.trans hm) Nat.one_pos (Nat.mul_le_mul_right 1 (Nat.le_of_not_le hlt))
  rw [roundMag_magUnits hm Nat.one_pos] at hback
  exact hlt (Nat.le_antisymm h hback ▸ le_rfl)

/-- Only the magnitude of zero has the value zero. -/
theorem magUnits_pos {m : Nat} (h : 0 < m) : 0 < magUnits m := by
  obtain ⟨e, s, -, hnormal, rfl, hunits⟩ := magUnits_significand m
  rw [hunits]
  refine Nat.mul_pos ?_ (Nat.two_pow_pos e)
  obtain rfl | hs := hnormal
  · omega
  · omega

end

/-! ## Signs and magnitudes of patterns -/

/-- The sign bit is the highest of the 32. -/
theorem f32Neg_eq (a : F32) : f32Neg a = decide (2 ^ 31 ≤ a.toNat) := by
  exact (BitVec.msb_eq_getLsbD_last a).symm.trans (BitVec.msb_eq_decide a)

/-- The magnitude is the pattern without its sign bit. -/
theorem f32Mag_eq (a : F32) : f32Mag a = (a.setWidth 31).toNat := (BitVec.toNat_setWidth 31 a).symm

/-- A packed pattern's magnitude. -/
theorem f32Mag_pack (neg : Bool) {m : Nat} (hm : m ≤ f32InfMag) : f32Mag (f32Pack neg m) = m := by
  simp only [f32InfMag] at hm
  simp only [f32Mag, f32Pack, BitVec.toNat_ofNat]
  split <;> omega

/-- A packed pattern's sign. -/
theorem f32Neg_pack (neg : Bool) {m : Nat} (hm : m ≤ f32InfMag) : f32Neg (f32Pack neg m) = neg := by
  simp only [f32InfMag] at hm
  simp only [f32Neg_eq, f32Pack, BitVec.toNat_ofNat]
  cases neg with
  | false => exact decide_eq_false (by simp only [Bool.false_eq_true, if_false]; omega)
  | true => exact decide_eq_true (by simp only [if_true]; omega)

/-- A pattern is its sign and its magnitude. -/
theorem pack_sign_mag (a : F32) : f32Pack (f32Neg a) (f32Mag a) = a := by
  have ha := a.isLt
  refine BitVec.eq_of_toNat_eq ?_
  simp only [f32Neg_eq, f32Mag, f32Pack, BitVec.toNat_ofNat, decide_eq_true_eq]
  split <;> omega

theorem f32Neg_fneg (a : F32) : f32Neg (fneg a) = !f32Neg a := by
  simp [f32Neg, fneg]

theorem f32Mag_fneg (a : F32) : f32Mag (fneg a) = f32Mag a := by
  simp [f32Mag_eq, fneg, BitVec.setWidth_xor]

theorem f32Neg_fabs (a : F32) : f32Neg (fabs a) = false := by
  simp [f32Neg, fabs]

theorem f32Mag_fabs (a : F32) : f32Mag (fabs a) = f32Mag a := by
  rw [f32Mag_eq, f32Mag_eq, fabs, BitVec.setWidth_and]
  exact congrArg BitVec.toNat BitVec.and_allOnes

/-! ## A rounded value -/

theorem roundMag_le_inf (p q : Nat) : roundMag p q ≤ f32InfMag := Nat.min_le_right _ _

@[simp] theorem f32Mag_round (neg : Bool) (p q : Nat) : f32Mag (f32Round neg p q) = roundMag p q :=
  f32Mag_pack neg (roundMag_le_inf p q)

@[simp] theorem f32Neg_round (neg : Bool) (p q : Nat) : f32Neg (f32Round neg p q) = neg :=
  f32Neg_pack neg (roundMag_le_inf p q)

/-- Nothing is rounded to zero. -/
theorem roundMag_zero {q : Nat} (hq : 0 < q) : roundMag 0 q = 0 := by
  have h := roundMag_magUnits (m := 0) (Nat.zero_le _) hq
  rwa [show magUnits 0 = 0 from rfl, Nat.zero_mul] at h

section
variable {a b : F32}

/-- A pattern that is not negative is the rounding of its own value, over any denominator. -/
theorem f32Round_units {q : Nat} (ha : f32FiniteNonneg a) (hq : 0 < q) : f32Round false (f32Units a * q) q = a := by
  rw [f32Round, f32Units_eq, roundMag_magUnits ha.2.le hq, ← ha.1, pack_sign_mag]

/-- A rounding within the finite range is finite and not negative. -/
theorem finiteNonneg_round {p q : Nat} (h : roundMag p q < f32InfMag) : f32FiniteNonneg (f32Round false p q) :=
  ⟨f32Neg_round false p q, (f32Mag_round false p q).symm ▸ h⟩

/-! ## The operations on finite values that are not negative -/

/-- A magnitude below infinity's is no NaN and no infinity. -/
theorem finite_of_mag_lt (h : f32Mag a < f32InfMag) : f32IsNaN a = false ∧ f32IsInf a = false :=
  ⟨decide_eq_false (Nat.not_lt.2 h.le), decide_eq_false h.ne⟩

theorem f32Signed_of_nonneg (ha : f32Neg a = false) : f32Signed a = f32Units a := by
  simp [f32Signed, ha]

/-- A finite sum is the rounding of the exact sum, `+0.0` or `-0.0` when that is zero. -/
theorem fadd_of_finite (ha : f32Mag a < f32InfMag) (hb : f32Mag b < f32InfMag) :
    fadd a b =
      if f32Signed a + f32Signed b = 0 then f32Pack (f32Neg a && f32Neg b) 0
      else f32Round (decide (f32Signed a + f32Signed b < 0)) (f32Signed a + f32Signed b).natAbs 1 := by
  obtain ⟨hna, hia⟩ := finite_of_mag_lt ha
  obtain ⟨hnb, hib⟩ := finite_of_mag_lt hb
  simp only [fadd, hna, hnb, hia, hib, Bool.or_self, Bool.false_eq_true, if_false]

/-- When the exact sum is not negative and not both operands are, the sum is its rounding. -/
theorem fadd_of_sum {n : Nat} (ha : f32Mag a < f32InfMag) (hb : f32Mag b < f32InfMag)
    (hsign : (f32Neg a && f32Neg b) = false) (hsum : f32Signed a + f32Signed b = n) :
    fadd a b = f32Round false n 1 := by
  rw [fadd_of_finite ha hb, hsum, hsign]
  split
  next hzero =>
    obtain rfl : n = 0 := by exact_mod_cast hzero
    rw [f32Round, roundMag_zero Nat.one_pos]
  next => rw [decide_eq_false (Int.not_lt.2 (Int.natCast_nonneg n)), Int.natAbs_natCast]

/-- A sum is the rounding of the exact sum. -/
theorem fadd_of_nonneg (ha : f32FiniteNonneg a) (hb : f32FiniteNonneg b) :
    fadd a b = f32Round false (f32Units a + f32Units b) 1 := by
  refine fadd_of_sum ha.2 hb.2 (by simp [ha.1]) ?_
  rw [f32Signed_of_nonneg ha.1, f32Signed_of_nonneg hb.1, Nat.cast_add]

/-- The magnitude of a finite sum is the rounding of the exact sum's. -/
theorem f32Mag_fadd (ha : f32Mag a < f32InfMag) (hb : f32Mag b < f32InfMag) :
    f32Mag (fadd a b) = roundMag (f32Signed a + f32Signed b).natAbs 1 := by
  rw [fadd_of_finite ha hb]
  split
  next hzero => rw [hzero, Int.natAbs_zero, roundMag_zero Nat.one_pos, f32Mag_pack _ (Nat.zero_le _)]
  next => rw [f32Mag_round]

theorem f32Signed_fneg (b : F32) : f32Signed (fneg b) = -f32Signed b := by
  simp only [f32Signed, f32Units_eq, f32Mag_fneg, f32Neg_fneg]
  cases f32Neg b with
  | false => rfl
  | true => exact (Int.neg_neg _).symm

/-- A finite difference is the sum with the negated value. -/
theorem fsub_of_finite (ha : f32Mag a < f32InfMag) (hb : f32Mag b < f32InfMag) : fsub a b = fadd a (fneg b) := by
  simp only [fsub, (finite_of_mag_lt ha).1, (finite_of_mag_lt hb).1, Bool.or_self, Bool.false_eq_true, if_false]

/-- The magnitude of a difference is the rounding of the exact difference's. -/
theorem f32Mag_fsub (ha : f32FiniteNonneg a) (hb : f32FiniteNonneg b) :
    f32Mag (fsub a b) = roundMag ((f32Units a : Int) - f32Units b).natAbs 1 := by
  rw [fsub_of_finite ha.2 hb.2, f32Mag_fadd ha.2 ((f32Mag_fneg b).symm ▸ hb.2), f32Signed_fneg,
    f32Signed_of_nonneg ha.1, f32Signed_of_nonneg hb.1, Int.sub_eq_add_neg]

/-- A difference that is not negative is the rounding of the exact difference. -/
theorem fsub_of_le (ha : f32FiniteNonneg a) (hb : f32FiniteNonneg b) (h : f32Units b ≤ f32Units a) :
    fsub a b = f32Round false (f32Units a - f32Units b) 1 := by
  rw [fsub_of_finite ha.2 hb.2]
  refine fadd_of_sum ha.2 ((f32Mag_fneg b).symm ▸ hb.2) (by simp [ha.1]) ?_
  rw [f32Signed_fneg, f32Signed_of_nonneg ha.1, f32Signed_of_nonneg hb.1, Nat.cast_sub h, Int.sub_eq_add_neg]

/-- A product is the rounding of the exact product, with the signs multiplied. -/
theorem fmul_of_finite (ha : f32Mag a < f32InfMag) (hb : f32Mag b < f32InfMag) :
    fmul a b = f32Round (f32Neg a != f32Neg b) (f32Units a * f32Units b) f32One := by
  obtain ⟨hna, hia⟩ := finite_of_mag_lt ha
  obtain ⟨hnb, hib⟩ := finite_of_mag_lt hb
  simp only [fmul, hna, hnb, hia, hib, Bool.or_self, Bool.false_eq_true, if_false]

/-- A product is the rounding of the exact product. -/
theorem fmul_of_nonneg (ha : f32FiniteNonneg a) (hb : f32FiniteNonneg b) :
    fmul a b = f32Round false (f32Units a * f32Units b) f32One := by
  rw [fmul_of_finite ha.2 hb.2, ha.1, hb.1, bne_self_eq_false]

/-- A quotient by a value that is not zero is the rounding of the exact quotient. -/
theorem fdiv_of_nonneg (ha : f32FiniteNonneg a) (hb : f32FiniteNonneg b) (hpos : 0 < f32Mag b) :
    fdiv a b = f32Round false (f32Units a * f32One) (f32Units b) := by
  obtain ⟨hna, hia⟩ := finite_of_mag_lt ha.2
  obtain ⟨hnb, hib⟩ := finite_of_mag_lt hb.2
  have hz : f32IsZero b = false := decide_eq_false hpos.ne'
  simp only [fdiv, hna, hnb, hia, hib, hz, ha.1, hb.1, Bool.or_self, bne_self_eq_false, Bool.false_eq_true, if_false]

/-- `+0.0` has no units, 1.0 has `f32One`. -/
theorem f32Units_zero : f32Units f32Zero = 0 := rfl

theorem f32Units_unit : f32Units f32Unit = f32One := by decide

theorem finiteNonneg_zero : f32FiniteNonneg f32Zero := ⟨rfl, by decide⟩

theorem finiteNonneg_unit : f32FiniteNonneg f32Unit := ⟨rfl, by decide⟩

/-- Adding `+0.0` on either side changes nothing. -/
theorem fadd_zero (ha : f32FiniteNonneg a) : fadd a f32Zero = a := by
  have h := f32Round_units ha Nat.one_pos
  rwa [fadd_of_nonneg ha finiteNonneg_zero, f32Units_zero, Nat.add_zero, ← Nat.mul_one (f32Units a)]

theorem zero_fadd (ha : f32FiniteNonneg a) : fadd f32Zero a = a := by
  have h := f32Round_units ha Nat.one_pos
  rwa [fadd_of_nonneg finiteNonneg_zero ha, f32Units_zero, Nat.zero_add, ← Nat.mul_one (f32Units a)]

theorem f32One_pos : 0 < f32One := Nat.two_pow_pos 149

/-- A product with 1.0 is the other factor, a product with `+0.0` is `+0.0`. -/
theorem fmul_unit (ha : f32FiniteNonneg a) : fmul a f32Unit = a := by
  rw [fmul_of_nonneg ha finiteNonneg_unit, f32Units_unit, f32Round_units ha f32One_pos]

theorem fmul_zero (ha : f32FiniteNonneg a) : fmul a f32Zero = f32Zero := by
  rw [fmul_of_nonneg ha finiteNonneg_zero, f32Units_zero, Nat.mul_zero, f32Round, roundMag_zero f32One_pos]
  rfl

end

/-! ## Integers as floats -/

/-- An integer of 32 bits is finite as a float. -/
theorem finiteNonneg_u2f {n : Nat} (hn : n < 2 ^ 32) : f32FiniteNonneg (u2f n) := by
  refine finiteNonneg_round (lt_of_le_of_lt (b := roundMag (2 ^ 32 * f32One) 1) ?_ (by decide))
  exact roundMag_mono Nat.one_pos Nat.one_pos (by gcongr)

/-- An integer below `2^24` is exact as a float. -/
theorem f32Units_u2f {n : Nat} (hn : n < 2 ^ 24) : f32Units (u2f n) = n * f32One := by
  rw [f32Units_eq, u2f, f32Mag_round]
  by_cases hzero : n = 0
  · rw [hzero, Nat.zero_mul, roundMag_zero Nat.one_pos]
    rfl
  have hbits : n.log2 < 24 := (Nat.log2_lt hzero).2 hn
  have hlow : 2 ^ 23 ≤ n * 2 ^ (23 - n.log2) := by
    calc 2 ^ 23 = 2 ^ n.log2 * 2 ^ (23 - n.log2) := by rw [← Nat.pow_add]; congr 1; omega
      _ ≤ n * 2 ^ (23 - n.log2) := Nat.mul_le_mul_right _ (Nat.log2_self_le hzero)
  have hhigh : n * 2 ^ (23 - n.log2) < 2 ^ 24 := by
    calc n * 2 ^ (23 - n.log2) < 2 ^ (n.log2 + 1) * 2 ^ (23 - n.log2) :=
          Nat.mul_lt_mul_of_pos_right Nat.lt_log2_self (Nat.two_pow_pos _)
      _ = 2 ^ 24 := by rw [← Nat.pow_add]; congr 1; omega
  have hvalue : n * f32One = n * 2 ^ (23 - n.log2) * 2 ^ (126 + n.log2) := by
    rw [f32One, Nat.mul_assoc, ← Nat.pow_add]
    congr 2
    omega
  have hround : roundMag (n * f32One) 1 = (126 + n.log2) * 2 ^ 23 + n * 2 ^ (23 - n.log2) := by
    rw [hvalue, ← Nat.mul_one (_ * 2 ^ (126 + _)), roundMag_significand hhigh (.inr hlow) Nat.one_pos]
    refine Nat.min_eq_left ?_
    simp only [f32InfMag]
    omega
  rw [hround, magUnits_of_significand hhigh (.inr hlow), ← hvalue]

/-- A raw count is finite as a float. -/
theorem finiteNonneg_u2f_half (raw : Half) : f32FiniteNonneg (u2f raw.toNat) :=
  finiteNonneg_u2f (raw.isLt.trans (by decide))

/-! ## The filter at the ends of the coefficient's range -/

theorem fsub_unit_unit : fsub f32Unit f32Unit = f32Zero := by decide

theorem fsub_unit_zero : fsub f32Unit f32Zero = f32Unit := by decide

/-- Settles O26: with 1.0 the average is multiplied by `+0.0` and the sample by 1.0, with `+0.0` the other way round. -/
theorem filterEndpointsAreExact : Obligations.FilterEndpointsAreExact := by
  intro average raw h
  have hraw := finiteNonneg_u2f_half raw
  constructor
  · calc filterStep average f32Unit raw
        = fadd (fmul average f32Zero) (fmul (u2f raw.toNat) f32Unit) := by rw [filterStep, fsub_unit_unit]
      _ = fadd f32Zero (u2f raw.toNat) := by rw [fmul_zero h, fmul_unit hraw]
      _ = u2f raw.toNat := zero_fadd hraw
  · calc filterStep average f32Zero raw
        = fadd (fmul average f32Unit) (fmul (u2f raw.toNat) f32Zero) := by rw [filterStep, fsub_unit_zero]
      _ = fadd average f32Zero := by rw [fmul_unit h, fmul_zero hraw]
      _ = average := fadd_zero h

end Sys2Proof.Machine

/-! PROOF. The calibration (O28): how many conversions are left until it ends (R119, R120), and the sums of a constant sample
on the way (R118, R123, R124). -/
namespace Sys2Proof.Machine

/-! ## How long a calibration runs -/

/-- How many conversions are left until the calibration ends: four for each sample left, less those of the cycle in
progress. -/
def conversionsLeft (s : State) : Nat := 4 * s.calRemaining.toNat - s.calCycle.toNat

section
variable {s : State}

/-- The calibration is over when no conversion is left. -/
theorem conversionsLeft_eq_zero : conversionsLeft s = 0 ↔ s.calRemaining = 0 := by
  have hcycle := s.calCycle.isLt
  rw [conversionsLeft]
  bv_omega

/-- The sample that divides the sums is the last one. -/
theorem conversionsLeft_eq_one : conversionsLeft s = 1 ↔ s.calCycle = 3 ∧ s.calRemaining = 1 := by
  have hcycle := s.calCycle.isLt
  rw [conversionsLeft]
  bv_omega

/-- A conversion takes one of those left. -/
theorem conversionsLeft_convComplete (raw : Half) (h : conversionsLeft s ≠ 0) :
    conversionsLeft (convComplete raw s) = conversionsLeft s - 1 := by
  have hcal : s.calRemaining ≠ 0 := fun he => h (conversionsLeft_eq_zero.2 he)
  obtain ⟨hcycle, hremaining, -⟩ := counters_convComplete_of_calibrating raw hcal
  rw [conversionsLeft, conversionsLeft, hcycle, hremaining, leftAfter]
  split <;> bv_omega

/-- Conversions take as many of those left as they are. -/
theorem conversionsLeft_convMany (raws : List Half) (h : raws.length ≤ conversionsLeft s) :
    conversionsLeft (convMany raws s) = conversionsLeft s - raws.length := by
  induction raws generalizing s with
  | nil => rfl
  | cons raw raws ih =>
    rw [List.length_cons] at h ⊢
    have hstep := conversionsLeft_convComplete raw (s := s) (by omega)
    rw [convMany, ih (by omega), hstep]
    omega

/-- A calibration just started has four conversions left for each sample (R122). -/
theorem conversionsLeft_startCalibration (s : State) :
    conversionsLeft (startCalibration s) = 4 * s.settings.calibrationSampleCount.toNat := rfl

end

/-! ## The sums of a constant sample -/

/-- How many of the next `n` conversions are of the channel that stands `offset` behind the next one (R112). -/
def conversionsDue (n : Nat) (offset : BitVec 2) : Nat := (n + 3 - offset.toNat) / 4

/-- A conversion serves the channel it is of, and the offsets of all channels fall by one, modulo 4. -/
theorem conversionsDue_next {n : Nat} (hn : n ≠ 0) (c d : BitVec 2) :
    conversionsDue n (d - c) = conversionsDue (n - 1) (d - (c + 1)) + if d = c then 1 else 0 := by
  rw [conversionsDue, conversionsDue]
  split <;> bv_omega

/-- On the way to the end of a calibration of `N` samples with the constant sample `X`, each channel has summed those of its
`N` samples that are not due any more. -/
structure Summing (N X : Nat) (s : State) : Prop where
  count : s.settings.calibrationSampleCount.toNat = N
  bound : conversionsLeft s ≤ 4 * N
  sum : ∀ d, (s.chan d).centerline = u2f ((N - conversionsDue (conversionsLeft s) (d - s.chanIdx)) * X)

theorem u2f_zero : u2f 0 = f32Zero := by decide

/-- Sums below `2^24` are exact (R124). -/
theorem fadd_u2f {m n : Nat} (h : m + n < 2 ^ 24) : fadd (u2f m) (u2f n) = u2f (m + n) := by
  rw [fadd_of_nonneg (finiteNonneg_u2f (by omega)) (finiteNonneg_u2f (by omega)), f32Units_u2f (by omega),
    f32Units_u2f (by omega), ← Nat.add_mul]
  rfl

/-- An integer that is not zero is at least 1.0 as a float. -/
theorem f32Mag_unit_le_u2f {n : Nat} (h : 0 < n) : f32Mag f32Unit ≤ f32Mag (u2f n) := by
  have hunit : f32Mag f32Unit = roundMag (1 * f32One) 1 := by decide
  rw [hunit, u2f, f32Mag_round]
  exact roundMag_mono Nat.one_pos Nat.one_pos (by gcongr; exact h)

theorem f32Mag_u2f_pos {n : Nat} (h : 0 < n) : 0 < f32Mag (u2f n) :=
  lt_of_lt_of_le (by decide) (f32Mag_unit_le_u2f h)

/-- A sum of `N` samples `X` below `2^24` divided by `N` is exactly `X` (R124): either `N` is exact as well, or `X` is zero. -/
theorem fdiv_u2f {N X : Nat} (hpos : 0 < N) (hN : N < 2 ^ 32) (h : N * X < 2 ^ 24) :
    fdiv (u2f (N * X)) (u2f N) = u2f X := by
  have hunits : 0 < f32Units (u2f N) := magUnits_pos (f32Mag_u2f_pos hpos)
  rw [fdiv_of_nonneg (finiteNonneg_u2f (h.trans (by decide))) (finiteNonneg_u2f hN) (f32Mag_u2f_pos hpos), f32Units_u2f h]
  refine congrArg (f32Pack false) (roundMag_congr hunits Nat.one_pos ?_)
  obtain rfl | hX := Nat.eq_zero_or_pos X
  · simp only [Nat.mul_zero, Nat.zero_mul]
  · rw [f32Units_u2f (lt_of_le_of_lt (Nat.le_mul_of_pos_right N hX) h)]
    ring

section
variable {N X : Nat} {s : State}

/-- A calibration just started has summed nothing (R122). -/
theorem Summing.startCalibration (X : Nat) (h : s.settings.calibrationSampleCount.toNat = N) :
    Summing N X (startCalibration s) where
  count := h
  bound := (conversionsLeft_startCalibration s).trans_le (h ▸ le_rfl)
  sum d := by
    have hsum : ((Machine.startCalibration s).chan d).centerline = u2f 0 :=
      (congrArg Channel.centerline (chan_restartCalibration (enterCritical s) d)).trans u2f_zero.symm
    have hdue : N - conversionsDue (4 * N) (d - s.chanIdx) = 0 := by
      rw [conversionsDue]
      omega
    rw [hsum, conversionsLeft_startCalibration, h]
    exact congrArg u2f ((congrArg (· * X) hdue).trans (Nat.zero_mul X)).symm

/-- The sample taken is added to the sum of its channel, exactly (R118). -/
theorem Summing.sum_added (h : Summing N X s) (hX : N * X < 2 ^ 24) (hleft : conversionsLeft s ≠ 0) {raw : Half}
    (hraw : raw.toNat = X) (d : BitVec 2) :
    (if d = s.chanIdx then summedChannel raw (s.chan d) else s.chan d).centerline =
      u2f ((N - conversionsDue (conversionsLeft s - 1) (d - (s.chanIdx + 1))) * X) := by
  have hbound := h.bound
  have hsum := h.sum d
  have hdue := conversionsDue_next hleft s.chanIdx d
  have hmost : conversionsDue (conversionsLeft s) (d - s.chanIdx) ≤ N := by
    rw [conversionsDue]
    omega
  split
  next hd =>
    rw [if_pos hd] at hdue
    have hmore : N - conversionsDue (conversionsLeft s - 1) (d - (s.chanIdx + 1)) =
        N - conversionsDue (conversionsLeft s) (d - s.chanIdx) + 1 := by omega
    have hroom : (N - conversionsDue (conversionsLeft s) (d - s.chanIdx)) * X + X < 2 ^ 24 := by
      refine lt_of_le_of_lt ?_ hX
      rw [← Nat.succ_mul]
      exact Nat.mul_le_mul_right X (by omega)
    rw [hmore, Nat.succ_mul, ← fadd_u2f hroom, ← hsum, ← hraw]
    rfl
  next hd =>
    rw [if_neg hd, Nat.add_zero] at hdue
    rw [hsum, hdue]

/-- A conversion that is not the last leaves a calibration on its way. -/
theorem Summing.convComplete (h : Summing N X s) (hX : N * X < 2 ^ 24) (hleft : 1 < conversionsLeft s) {raw : Half}
    (hraw : raw.toNat = X) : Summing N X (Machine.convComplete raw s) where
  count := (congrArg (·.settings.calibrationSampleCount.toNat) (convComplete_frame raw s).1).trans h.count
  bound := by
    have hbound := h.bound
    rw [conversionsLeft_convComplete raw (by omega)]
    omega
  sum d := by
    have hcal : s.calRemaining ≠ 0 := fun he => by
      rw [conversionsLeft_eq_zero.2 he] at hleft
      omega
    have hmore : ¬(s.calCycle = 3 ∧ s.calRemaining = 1) := fun he => by
      rw [conversionsLeft_eq_one.2 he] at hleft
      omega
    rw [chan_convComplete_of_calibrating raw hcal, if_neg hmore, conversionsLeft_convComplete raw (by omega),
      (indices_convComplete raw s).1]
    exact h.sum_added hX (by omega) hraw d

/-- The last conversion completes all four sums and divides them (R120). -/
theorem Summing.centerline_of_last (h : Summing N X s) (hpos : 0 < N) (hX : N * X < 2 ^ 24)
    (hleft : conversionsLeft s = 1) {raw : Half} (hraw : raw.toNat = X) (d : BitVec 2) :
    ((Machine.convComplete raw s).chan d).centerline = u2f X := by
  have hend := conversionsLeft_eq_one.1 hleft
  have hcal : s.calRemaining ≠ 0 := by
    rw [hend.2]
    decide
  have hdue : N - conversionsDue 0 (d - (s.chanIdx + 1)) = N := by
    rw [conversionsDue]
    omega
  have hsum := h.sum_added hX (by omega) hraw d
  rw [hleft, Nat.sub_self, hdue] at hsum
  have hN : N < 2 ^ 32 := h.count ▸ s.settings.calibrationSampleCount.isLt
  rw [chan_convComplete_of_calibrating raw hcal, if_pos hend, dividedChannel, hsum, h.count]
  exact fdiv_u2f hpos hN hX

/-- The constant sample to the end of the calibration leaves the sample in every centerline (R123). -/
theorem Summing.centerline_of_rest (hpos : 0 < N) (hX : N * X < 2 ^ 24) {raw : Half} (hraw : raw.toNat = X) (n : Nat)
    (h : Summing N X s) (hleft : conversionsLeft s = n + 1) (d : BitVec 2) :
    ((convMany (List.replicate (n + 1) raw) s).chan d).centerline = u2f X := by
  induction n generalizing s with
  | zero => exact h.centerline_of_last hpos hX hleft hraw d
  | succ n ih =>
    rw [List.replicate_succ, convMany]
    refine ih (h.convComplete hX (by omega) hraw) ?_
    rw [conversionsLeft_convComplete raw (by omega)]
    omega

end

/-- Settles O28: of the `4 N` conversions left each sample takes one, and the constant sample is summed exactly. -/
theorem calibrationConverges : Obligations.CalibrationConverges := by
  intro s N hcount hpos
  have hstart : conversionsLeft (startCalibration s) = 4 * N := (conversionsLeft_startCalibration s).trans (hcount ▸ rfl)
  refine ⟨fun raws hlen he => ?_, fun raws hlen => ?_, fun X hX c => ?_⟩
  · have hleft := conversionsLeft_convMany raws (hstart ▸ hlen.le)
    rw [conversionsLeft_eq_zero.2 he] at hleft
    omega
  · rw [← conversionsLeft_eq_zero, conversionsLeft_convMany raws (hstart ▸ hlen.le)]
    omega
  · obtain ⟨n, hn⟩ : ∃ n, 4 * N = n + 1 := Nat.exists_eq_add_of_le' (by omega)
    rw [hn]
    exact (Summing.startCalibration X.toNat hcount).centerline_of_rest hpos hX rfl n (hstart.trans hn) c

end Sys2Proof.Machine

/-! PROOF. The float registers stay finite and not negative through a conversion (R125): the bounds of each operation, the
filter, the deviation, the sum and its division. -/
namespace Sys2Proof.Machine

section
variable {a b : F32}

/-! ## Bounds of the operations -/

/-- The value of a finite magnitude is at most that of the largest. -/
theorem f32Units_le_max (ha : f32FiniteNonneg a) : f32Units a ≤ magUnits (f32InfMag - 1) :=
  magUnits_mono (Nat.sub_le _ _) (Nat.le_sub_one_of_lt ha.2)

/-- Values are in the order of their magnitudes. -/
theorem f32Units_mono (hb : f32Mag b < f32InfMag) (h : f32Mag a ≤ f32Mag b) : f32Units a ≤ f32Units b :=
  magUnits_mono hb.le h

theorem u2f_mono {m n : Nat} (h : m ≤ n) : f32Mag (u2f m) ≤ f32Mag (u2f n) := by
  rw [u2f, u2f, f32Mag_round, f32Mag_round]
  exact roundMag_mono Nat.one_pos Nat.one_pos (by gcongr)

/-- What is at most the largest raw count is lost in rounding beside the largest finite value, so that adding it stays
finite. -/
theorem finiteNonneg_fadd (ha : f32FiniteNonneg a) (hb : f32FiniteNonneg b) (hsmall : f32Mag b ≤ f32Mag (u2f 65535)) :
    f32FiniteNonneg (fadd a b) := by
  have hunits : f32Units b ≤ f32Units (u2f 65535) := f32Units_mono (by decide) hsmall
  have hmax : roundMag (magUnits (f32InfMag - 1) + f32Units (u2f 65535)) 1 < f32InfMag := by decide
  rw [fadd_of_nonneg ha hb]
  refine finiteNonneg_round (lt_of_le_of_lt (roundMag_mono Nat.one_pos Nat.one_pos ?_) hmax)
  exact Nat.mul_le_mul_right 1 (Nat.add_le_add (f32Units_le_max ha) hunits)

/-- A product with a factor of at most 1.0 is at most the other factor. -/
theorem f32Mag_fmul_le (ha : f32FiniteNonneg a) (hb : f32FiniteNonneg b) (hunit : f32Mag b ≤ f32Mag f32Unit) :
    f32Mag (fmul a b) ≤ f32Mag a := by
  rw [fmul_of_nonneg ha hb, f32Mag_round]
  refine roundMag_le ha.2.le f32One_pos (Nat.mul_le_mul_left _ ?_)
  exact f32Units_unit ▸ f32Units_mono finiteNonneg_unit.2 hunit

theorem finiteNonneg_fmul (ha : f32FiniteNonneg a) (hb : f32FiniteNonneg b) (hunit : f32Mag b ≤ f32Mag f32Unit) :
    f32FiniteNonneg (fmul a b) := by
  refine ⟨?_, (f32Mag_fmul_le ha hb hunit).trans_lt ha.2⟩
  rw [fmul_of_nonneg ha hb, f32Neg_round]

/-- 1.0 less a coefficient is between 0 and 1.0. -/
theorem fsub_unit_bounds (ha : f32FiniteNonneg a) (hunit : f32Mag a ≤ f32Mag f32Unit) :
    f32FiniteNonneg (fsub f32Unit a) ∧ f32Mag (fsub f32Unit a) ≤ f32Mag f32Unit := by
  have hle : f32Units a ≤ f32Units f32Unit := f32Units_mono finiteNonneg_unit.2 hunit
  have hmag : roundMag (f32Units f32Unit - f32Units a) 1 ≤ f32Mag f32Unit :=
    roundMag_le finiteNonneg_unit.2.le Nat.one_pos ((Nat.sub_le _ _).trans (Nat.mul_one _).ge)
  rw [fsub_of_le finiteNonneg_unit ha hle]
  exact ⟨finiteNonneg_round (hmag.trans_lt finiteNonneg_unit.2), (f32Mag_round _ _ _).trans_le hmag⟩

/-- A quotient by at least 1.0 is finite. -/
theorem finiteNonneg_fdiv (ha : f32FiniteNonneg a) (hb : f32FiniteNonneg b) (hunit : f32Mag f32Unit ≤ f32Mag b) :
    f32FiniteNonneg (fdiv a b) := by
  have hpos : 0 < f32Mag b := lt_of_lt_of_le (by decide) hunit
  have hle : f32One ≤ f32Units b := f32Units_unit ▸ f32Units_mono hb.2 hunit
  rw [fdiv_of_nonneg ha hb hpos]
  refine finiteNonneg_round (lt_of_le_of_lt (roundMag_le ha.2.le (magUnits_pos hpos) ?_) ha.2)
  exact Nat.mul_le_mul_left _ hle

/-- The deviation is finite and not negative (R116). -/
theorem finiteNonneg_deviationOf (ha : f32FiniteNonneg a) (hb : f32FiniteNonneg b) :
    f32FiniteNonneg (deviationOf a b) := by
  have hmaxa := f32Units_le_max ha
  have hmaxb := f32Units_le_max hb
  have hmag : f32Mag (deviationOf a b) ≤ f32InfMag - 1 := by
    rw [deviationOf, f32Mag_fabs, f32Mag_fsub ha hb]
    refine roundMag_le (Nat.sub_le _ _) Nat.one_pos ?_
    rw [Nat.mul_one]
    omega
  exact ⟨f32Neg_fabs _, hmag.trans_lt (by decide)⟩

/-! ## The coefficient -/

/-- A coefficient in range is a value from `+0.0` to 1.0, or `-0.0`. -/
theorem alphaInRange_cases {alpha : F32} (h : alphaInRange alpha) :
    (f32FiniteNonneg alpha ∧ f32Mag alpha ≤ f32Mag f32Unit) ∨ alpha = 0x80000000 := by
  obtain hle | heq := h
  · have hmag : f32Mag alpha = alpha.toNat := Nat.mod_eq_of_lt (lt_of_le_of_lt hle (by decide))
    have hneg : f32Neg alpha = false := by
      rw [f32Neg_eq]
      exact decide_eq_false (Nat.not_le.2 (lt_of_le_of_lt hle (by decide)))
    exact .inl ⟨⟨hneg, hmag ▸ lt_of_le_of_lt hle (by decide)⟩, hmag ▸ hle⟩
  · exact .inr (BitVec.eq_of_toNat_eq heq)

theorem alphaInRange_of_mag_le (hneg : f32Neg a = false) (h : f32Mag a ≤ f32Mag f32Unit) : alphaInRange a := by
  rw [f32Neg_eq, decide_eq_false_iff_not, Nat.not_le] at hneg
  rw [f32Mag, Nat.mod_eq_of_lt hneg] at h
  exact .inl h

/-- A percentage up to 100 stands for a coefficient in range (R188). -/
theorem alphaInRange_percentToAlpha {q : Nat} (hq : q ≤ 100) : alphaInRange (percentToAlpha q) := by
  have hhundred : f32Units f32Hundred = 100 * f32One := by decide
  have hround : percentToAlpha q = f32Round false (q * f32One * f32One) (100 * f32One) := by
    rw [percentToAlpha, fdiv_of_nonneg (finiteNonneg_u2f (by omega)) ⟨rfl, by decide⟩ (by decide), hhundred,
      f32Units_u2f (by omega)]
  rw [hround]
  refine alphaInRange_of_mag_le (f32Neg_round _ _ _) ?_
  rw [f32Mag_round]
  refine roundMag_le finiteNonneg_unit.2.le (by decide) ?_
  calc q * f32One * f32One ≤ 100 * f32One * f32One := by gcongr
    _ = magUnits (f32Mag f32Unit) * (100 * f32One) := by rw [← f32Units_eq, f32Units_unit]; ring

/-! ## The filter -/

/-- With the coefficient `-0.0` the average stays as it is. -/
theorem filterStep_negZero (raw : Half) (ha : f32FiniteNonneg a) : filterStep a 0x80000000 raw = a := by
  have hraw := finiteNonneg_u2f_half raw
  have hproduct : fmul (u2f raw.toNat) 0x80000000 = 0x80000000 := by
    rw [fmul_of_finite hraw.2 (by decide), hraw.1, show f32Units 0x80000000 = 0 by decide, Nat.mul_zero, f32Round,
      roundMag_zero f32One_pos]
    rfl
  have hsum : fadd a 0x80000000 = f32Round false (f32Units a) 1 := by
    refine fadd_of_sum ha.2 (by decide) (by simp [ha.1]) ?_
    rw [f32Signed_of_nonneg ha.1, show f32Signed 0x80000000 = 0 by decide, Int.add_zero]
  have hself := f32Round_units ha Nat.one_pos
  rw [Nat.mul_one] at hself
  rw [filterStep, show fsub f32Unit 0x80000000 = f32Unit by decide, fmul_unit ha, hproduct, hsum, hself]

/-- The filter keeps the average finite and not negative (R115): the old average counts with a factor of at most 1.0, and so
does the sample. -/
theorem finiteNonneg_filterStep {alpha : F32} (raw : Half) (ha : f32FiniteNonneg a) (halpha : alphaInRange alpha) :
    f32FiniteNonneg (filterStep a alpha raw) := by
  obtain ⟨htame, hunit⟩ | rfl := alphaInRange_cases halpha
  · have hraw := finiteNonneg_u2f_half raw
    obtain ⟨hrest, hrestUnit⟩ := fsub_unit_bounds htame hunit
    refine finiteNonneg_fadd (finiteNonneg_fmul ha hrest hrestUnit) (finiteNonneg_fmul hraw htame hunit) ?_
    exact (f32Mag_fmul_le hraw htame hunit).trans (u2f_mono (Nat.le_of_lt_succ raw.isLt))
  · exact (filterStep_negZero raw ha).symm ▸ ha

end

/-! ## The channels -/

/-- The float registers of a channel are finite and not negative. -/
structure ChannelTame (x : Channel) : Prop where
  average : f32FiniteNonneg x.average
  deviation : f32FiniteNonneg x.deviation
  centerline : f32FiniteNonneg x.centerline

theorem floatsTame_iff (s : State) : floatsTame s ↔ ∀ c, ChannelTame (s.chan c) :=
  forall_congr' fun _ => ⟨fun ⟨ha, hd, hc⟩ => ⟨ha, hd, hc⟩, fun ⟨ha, hd, hc⟩ => ⟨ha, hd, hc⟩⟩

section
variable {x : Channel} {s t : State}

theorem ChannelTame.armed (h : ChannelTame x) {alpha : F32} (halpha : alphaInRange alpha) (raw : Half) :
    ChannelTame (armedChannel alpha raw x) :=
  have haverage := finiteNonneg_filterStep raw h.average halpha
  ⟨haverage, finiteNonneg_deviationOf haverage h.centerline, h.centerline⟩

theorem ChannelTame.summed (h : ChannelTame x) (raw : Half) : ChannelTame (summedChannel raw x) :=
  { h with centerline :=
      finiteNonneg_fadd h.centerline (finiteNonneg_u2f_half raw) (u2f_mono (Nat.le_of_lt_succ raw.isLt)) }

theorem ChannelTame.divided (h : ChannelTame x) {count : Word} (hcount : count ≠ 0) :
    ChannelTame (dividedChannel count x) := by
  have hpos : 0 < count.toNat := by bv_omega
  exact { h with centerline := finiteNonneg_fdiv h.centerline (finiteNonneg_u2f count.isLt) (f32Mag_unit_le_u2f hpos) }

theorem ChannelTame.cleared (h : ChannelTame x) : ChannelTame { x with centerline := f32Zero } :=
  { h with centerline := finiteNonneg_zero }

/-- A conversion keeps the float registers tame, with a coefficient in range and a count that is not 0 (R125). -/
theorem floatsTame_convComplete (raw : Half) (h : floatsTame s) (halpha : alphaInRange s.settings.filterAlpha)
    (hcount : s.calRemaining ≠ 0 → s.settings.calibrationSampleCount ≠ 0) : floatsTame (convComplete raw s) := by
  rw [floatsTame_iff] at h ⊢
  intro d
  by_cases hcal : s.calRemaining = 0
  · rw [chan_convComplete_of_armed raw hcal]
    split
    · exact (h d).armed halpha raw
    · exact h d
  · have hsummed : ChannelTame (if d = s.chanIdx then summedChannel raw (s.chan d) else s.chan d) := by
      split
      · exact (h d).summed raw
      · exact h d
    rw [chan_convComplete_of_calibrating raw hcal]
    split
    · exact hsummed.divided (hcount hcal)
    · exact hsummed

/-- A restart of the calibration keeps the float registers tame (R122). -/
theorem floatsTame_restartCalibration (h : floatsTame s) : floatsTame (restartCalibration s) := by
  rw [floatsTame_iff] at h ⊢
  intro d
  rw [chan_restartCalibration]
  exact (h d).cleared

/-- Registers that are all zero are tame (R33). -/
theorem floatsTame_of_zero (h : ∀ c, s.chan c = ⟨0, 0, 0, 0⟩) : floatsTame s := by
  rw [floatsTame_iff]
  intro d
  rw [h d]
  exact ⟨finiteNonneg_zero, finiteNonneg_zero, finiteNonneg_zero⟩

/-- Tameness speaks of the channel file only. -/
theorem floatsTame_congr (hch : t.ch = s.ch) (h : floatsTame s) : floatsTame t := by
  rw [floatsTame_iff] at h ⊢
  intro d
  rw [chan_congr hch]
  exact h d

end

end Sys2Proof.Machine

/-! PROOF. Every step keeps the float registers tame (O29): what a step other than a conversion may do to the registers that
`FloatSafe` speaks of, said once, and what each of these moves keeps (R125). -/
namespace Sys2Proof.Machine

/-! ## The premises of the filter -/

/-- What `FloatSafe` says beside the float registers themselves: where the coefficient and the count are to be trusted. -/
structure FloatPremise (s : State) : Prop where
  alpha : s.boot ≠ .b1 → s.boot ≠ .b2 → alphaInRange s.settings.filterAlpha
  stored : blockValid (nvRead s) = true → alphaInRange (unpackSettings (nvRead s)).filterAlpha
  counting : s.calRemaining ≠ 0 → (s.boot = .b4 ∨ s.boot = .done) ∧ s.settings.calibrationSampleCount ≠ 0

theorem floatSafe_iff (s : State) : FloatSafe s ↔ floatsTame s ∧ FloatPremise s :=
  ⟨fun h => ⟨h.floats, h.alpha, h.stored, h.counting⟩, fun ⟨hf, ha, hs, hc⟩ => ⟨hf, ha, hs, hc⟩⟩

/-- The registers that `FloatSafe` reads. -/
structure FloatRegs where
  channels : Vector Channel 4
  alpha : F32
  count : Word
  remaining : Word
  nv : Memory
  boot : BootStep

/-- These registers of a state. -/
def floatRegs (s : State) : FloatRegs where
  channels := s.ch
  alpha := s.settings.filterAlpha
  count := s.settings.calibrationSampleCount
  remaining := s.calRemaining
  nv := s.nv
  boot := s.boot

/-- `t` has these registers of `s`. -/
def KeepsFloats (s t : State) : Prop := floatRegs t = floatRegs s

section
variable {s t : State}

theorem KeepsFloats.refl (s : State) : KeepsFloats s s := rfl

theorem KeepsFloats.floatsTame (h : KeepsFloats s t) (hs : floatsTame s) : floatsTame t :=
  floatsTame_congr (congrArg FloatRegs.channels h) hs

/-- The block read depends on the store only. -/
theorem nvRead_congr (h : t.nv = s.nv) : nvRead t = nvRead s := by
  simp only [nvRead, h]

/-- The premise of U6 depends on the store only. -/
theorem FloatPremise.stored_of_nv (h : FloatPremise s) (hnv : t.nv = s.nv) (hv : blockValid (nvRead t) = true) :
    alphaInRange (unpackSettings (nvRead t)).filterAlpha := by
  rw [nvRead_congr hnv] at hv ⊢
  exact h.stored hv

theorem KeepsFloats.premise (h : KeepsFloats s t) (hs : FloatPremise s) : FloatPremise t := by
  have halpha : t.settings.filterAlpha = s.settings.filterAlpha := congrArg FloatRegs.alpha h
  have hcount : t.settings.calibrationSampleCount = s.settings.calibrationSampleCount := congrArg FloatRegs.count h
  have hremaining : t.calRemaining = s.calRemaining := congrArg FloatRegs.remaining h
  have hboot : t.boot = s.boot := congrArg FloatRegs.boot h
  exact
    { alpha := by
        rw [hboot, halpha]
        exact hs.alpha
      stored := hs.stored_of_nv (congrArg FloatRegs.nv h)
      counting := by
        rw [hremaining, hboot, hcount]
        exact hs.counting }

/-- Four bytes of a word read back are the word (R43). -/
theorem le32_le32Bytes (w : Word) :
    le32 (w.extractLsb' 0 8) (w.extractLsb' 8 8) (w.extractLsb' 16 8) (w.extractLsb' 24 8) = w := by
  have hhigh : w.extractLsb' 24 8 ++ w.extractLsb' 16 8 = w.extractLsb' 16 16 :=
    BitVec.extractLsb'_append_extractLsb'_eq_extractLsb' rfl
  have hupper : w.extractLsb' 16 16 ++ w.extractLsb' 8 8 = w.extractLsb' 8 24 :=
    BitVec.extractLsb'_append_extractLsb'_eq_extractLsb' rfl
  have hall : w.extractLsb' 8 24 ++ w.extractLsb' 0 8 = w.extractLsb' 0 32 :=
    BitVec.extractLsb'_append_extractLsb'_eq_extractLsb' rfl
  rw [le32, hhigh, hupper, hall]
  exact BitVec.extractLsb'_eq_self

/-- A packed block has the coefficient it was packed from (R44, R156). -/
theorem filterAlpha_unpack_pack (x : Settings) : (unpackSettings (packSettings x)).filterAlpha = x.filterAlpha :=
  le32_le32Bytes x.filterAlpha

/-- The default coefficient is in range (R4). -/
theorem alphaInRange_default {p : Params} (h : p.ok = true) : alphaInRange (defaultSettings p).filterAlpha := by
  simp only [Params.ok, Bool.and_eq_true, decide_eq_true_eq] at h
  exact h.1.2

/-! ## What a step may do -/

/-- What a step other than a conversion and an assertion of `rst` may do to the registers that `FloatSafe` reads. -/
inductive FloatMove (s t : State) : Prop where
  /-- Nothing. -/
  | keep (h : KeepsFloats s t)
  /-- Opcode 0x0C (R188). -/
  | coefficient {alpha : F32} (ha : alphaInRange alpha)
      (h : KeepsFloats { s with settings := { s.settings with filterAlpha := alpha } } t)
  /-- Opcodes 0x08 and 0x09 (R184, R185). -/
  | restart {x : Settings} (hb : s.boot = .done) (hx : x = s.settings ∨ x = defaultSettings s.params)
      (h : KeepsFloats (restartCalibration { s with settings := x }) t)
  /-- Opcode 0x0A (R186). -/
  | store {nv : Memory} (hb : s.boot = .done) (hnv : nv = Memory.writeRun nvBytes [] 0 (packSettings s.settings))
      (h : KeepsFloats { s with nv := nv } t)
  /-- Boot step B1 (R232). -/
  | boot1 (hb : s.boot = .b1) (h : KeepsFloats { s with boot := .b2 } t)
  /-- Boot step B2 with a valid block (R158). -/
  | load (hb : s.boot = .b2) (hv : blockValid (nvRead s) = true)
      (h : KeepsFloats { s with settings := unpackSettings (nvRead s), boot := .b3 } t)
  /-- Boot step B2 without one (R158, R233). -/
  | loadDefaults {nv : Memory} (hb : s.boot = .b2)
      (hnv : nv = Memory.writeRun nvBytes [] 0 (packSettings (defaultSettings s.params)))
      (h : KeepsFloats { s with settings := defaultSettings s.params, nv := nv, boot := .b3 } t)
  /-- Boot step B3 (R234). -/
  | boot3 (hb : s.boot = .b3) (h : KeepsFloats { restartCalibration s with boot := .b4 } t)
  /-- Boot step B4 (R235). -/
  | boot4 (hb : s.boot = .b4) (h : KeepsFloats { s with boot := .done } t)

/-- Each of these moves keeps the float registers tame: they clear centerlines at most. -/
theorem FloatMove.floatsTame (hm : FloatMove s t) (h : floatsTame s) : floatsTame t := by
  cases hm with
  | keep hk => exact hk.floatsTame h
  | coefficient _ hk => exact hk.floatsTame (floatsTame_congr (s := s) rfl h)
  | restart _ _ hk => exact hk.floatsTame (floatsTame_restartCalibration (floatsTame_congr (s := s) rfl h))
  | store _ _ hk => exact hk.floatsTame (floatsTame_congr (s := s) rfl h)
  | boot1 _ hk => exact hk.floatsTame (floatsTame_congr (s := s) rfl h)
  | load _ _ hk => exact hk.floatsTame (floatsTame_congr (s := s) rfl h)
  | loadDefaults _ _ hk => exact hk.floatsTame (floatsTame_congr (s := s) rfl h)
  | boot3 _ hk => exact hk.floatsTame (floatsTame_congr (s := restartCalibration s) rfl (floatsTame_restartCalibration h))
  | boot4 _ hk => exact hk.floatsTame (floatsTame_congr (s := s) rfl h)

/-- A block just stored has the coefficient of the settings it was packed from. -/
theorem alphaInRange_stored {x : Settings} (hx : alphaInRange x.filterAlpha)
    (hs : s.nv = Memory.writeRun nvBytes [] 0 (packSettings x)) : alphaInRange (unpackSettings (nvRead s)).filterAlpha := by
  rw [nvRead_of_nv_eq (packSettings_length x) hs, filterAlpha_unpack_pack]
  exact hx

/-- Each of these moves keeps the premises, with a build within R4. -/
theorem FloatMove.premise (hm : FloatMove s t) (hp : s.params.ok = true) (h : FloatPremise s) : FloatPremise t := by
  have hdefault := alphaInRange_default hp
  cases hm with
  | keep hk => exact hk.premise h
  | coefficient ha hk =>
    exact hk.premise
      { alpha := fun _ _ => ha
        stored := h.stored_of_nv rfl
        counting := h.counting }
  | restart hb hx hk =>
    have hdone := h.alpha (by simp [hb]) (by simp [hb])
    refine hk.premise
      { alpha := fun _ _ => ?_
        stored := h.stored_of_nv rfl
        counting := fun hcal => ⟨.inr hb, hcal⟩ }
    obtain rfl | rfl := hx
    · exact hdone
    · exact hdefault
  | store hb hnv hk =>
    have hdone := h.alpha (by simp [hb]) (by simp [hb])
    exact hk.premise
      { alpha := h.alpha
        stored := fun _ => alphaInRange_stored hdone hnv
        counting := h.counting }
  | boot1 hb hk =>
    exact hk.premise
      { alpha := fun _ hne => absurd rfl hne
        stored := h.stored_of_nv rfl
        counting := fun hcal => absurd (h.counting hcal).1 (by simp [hb]) }
  | load hb hv hk =>
    exact hk.premise
      { alpha := fun _ _ => h.stored hv
        stored := h.stored_of_nv rfl
        counting := fun hcal => absurd (h.counting hcal).1 (by simp [hb]) }
  | loadDefaults hb hnv hk =>
    exact hk.premise
      { alpha := fun _ _ => hdefault
        stored := fun _ => alphaInRange_stored hdefault hnv
        counting := fun hcal => absurd (h.counting hcal).1 (by simp [hb]) }
  | boot3 hb hk =>
    have hloaded := h.alpha (by simp [hb]) (by simp [hb])
    exact hk.premise
      { alpha := fun _ _ => hloaded
        stored := h.stored_of_nv rfl
        counting := fun hcal => ⟨.inl rfl, hcal⟩ }
  | boot4 hb hk =>
    have hloaded := h.alpha (by simp [hb]) (by simp [hb])
    exact hk.premise
      { alpha := fun _ _ => hloaded
        stored := h.stored_of_nv rfl
        counting := fun hcal => ⟨.inr rfl, (h.counting hcal).2⟩ }

/-! ## Which steps make which move -/

/-- The move does not depend on the registers that `FloatSafe` does not read. -/
theorem FloatMove.of_micro {m : MicroStep} (hm : FloatMove { s with micro := m } t) : FloatMove s t := by
  cases hm with
  | keep h => exact .keep h
  | coefficient ha h => exact .coefficient ha h
  | restart hb hx h => exact .restart hb hx h
  | store hb hnv h => exact .store hb hnv h
  | boot1 hb h => exact .boot1 hb h
  | load hb hv h => exact .load hb hv h
  | loadDefaults hb hnv h => exact .loadDefaults hb hnv h
  | boot3 hb h => exact .boot3 hb h
  | boot4 hb h => exact .boot4 hb h

/-- The frame builder writes no such register (R103). -/
theorem keepsFloats_buildFrame (op : Byte) (payload : List Byte) (s : State) : KeepsFloats s (buildFrame op payload s) := by
  obtain ⟨q, -, he⟩ | ⟨-, he⟩ := buildFrame_cases op payload s
  · rw [he]
    exact rfl
  · rw [he]
    exact rfl

/-- What each row of the table does to the registers that `FloatSafe` reads. -/
theorem exec_floatMove (i : Instr) (hb : s.boot = .done) : ∃ t, exec i s = .next t ∧ FloatMove s t := by
  cases i with
  | getIdAndVersion p => exact ⟨_, rfl, .keep rfl⟩
  | getThreshold p => exact ⟨_, rfl, .keep rfl⟩
  | getTriggerMode p => exact ⟨_, rfl, .keep rfl⟩
  | getAlpha p => exact ⟨_, rfl, .keep rfl⟩
  | readCurrentValues p => exact ⟨_, rfl, .keep rfl⟩
  | readCurrentAverages p => exact ⟨_, rfl, .keep rfl⟩
  | setThreshold p =>
    cases p with
    | nil => exact ⟨_, rfl, .keep rfl⟩
    | cons b p => exact ⟨_, rfl, .keep rfl⟩
  | setTriggerMode p =>
    cases p with
    | nil => exact ⟨_, rfl, .keep rfl⟩
    | cons b p =>
      simp only [exec, execSetTriggerMode, operandU8]
      split
      · exact ⟨_, rfl, .keep rfl⟩
      · exact ⟨_, rfl, .keep rfl⟩
  | setAlpha p =>
    cases p with
    | nil => exact ⟨_, rfl, .keep rfl⟩
    | cons b p =>
      exact ⟨_, rfl, .coefficient (alphaInRange_percentToAlpha (Nat.min_le_right b.toNat 100)) rfl⟩
  | reset p => exact ⟨_, rfl, .restart hb (.inr rfl) rfl⟩
  | recalibrate p => exact ⟨_, rfl, .restart hb (.inl rfl) rfl⟩
  | storeSettings p => exact ⟨_, exec_storeSettings p s, .store hb rfl rfl⟩
  | _ => exact ⟨_, exec_response rfl, .keep (keepsFloats_buildFrame _ _ s)⟩

theorem floatMove_of_exec {i : Instr} (hb : s.boot = .done) (h : exec i s = .next t) : FloatMove s t := by
  obtain ⟨u, hu, hm⟩ := exec_floatMove i hb
  obtain rfl : u = t := Host.Outcome.next.inj (hu.symm.trans h)
  exact hm

/-- The dispatcher makes the move of the row, or none (R71). -/
theorem floatMove_of_dispatch (hb : s.boot = .done) (h : dispatchFrame s = .next t) : FloatMove s t := by
  obtain ⟨-, ⟨i, -, he⟩ | ⟨-, rfl⟩⟩ := dispatchFrame_eq_next h
  · exact (floatMove_of_exec (s := { s with micro := .remove }) hb he).of_micro
  · exact .keep rfl

/-- Every step of `Main` makes one of these moves. -/
theorem MainMove.floatMove (h : MainMove s t) : FloatMove s t := by
  cases h with
  | b1 hb => exact .boot1 hb (.refl _)
  | b2 hb =>
    obtain ⟨hv, he⟩ | ⟨-, he⟩ := settingsLoad_cases s
    · rw [he]
      exact .load hb hv (.refl _)
    · rw [he]
      generalize hnv : Memory.writeRun nvBytes [] 0 (packSettings (defaultSettings s.params)) = nv
      exact .loadDefaults hb hnv.symm rfl
  | b3 hb => exact .boot3 hb (.refl _)
  | b4 hb => exact .boot4 hb rfl
  | scan _ _ _ h =>
    obtain ⟨q, -, ⟨_, _, -, rfl⟩ | ⟨_, -, ⟨-, rfl⟩ | ⟨-, q', -, rfl⟩⟩⟩ := scanFrame_eq_next h
    · exact .keep rfl
    · exact .keep rfl
    · exact .keep rfl
  | trigger =>
    obtain he | he := triggerEvaluate_cases s
    · rw [he]
      exact .keep rfl
    · rw [he]
      exact .keep rfl
  | debounce =>
    obtain ⟨-, he⟩ | ⟨-, he⟩ := debounceCheck_cases s
    · rw [he]
      exact .keep rfl
    · rw [he]
      exact .keep rfl
  | dispatch hb _ h => exact floatMove_of_dispatch hb h
  | snapshot _ _ h =>
    obtain ⟨m, hm, -⟩ := snapshotStep_cases _ _ s
    obtain rfl := Host.Outcome.next.inj (hm.symm.trans h)
    exact .keep rfl
  | build hb _ h => exact (floatMove_of_exec (s := { s with micro := .remove }) hb h).of_micro
  | remove _ _ h =>
    obtain ⟨q, -, rfl⟩ := removeFrame_eq_next h
    exact .keep rfl

/-- The bus writes rings and its own traces only (R90 to R92). -/
theorem keepsFloats_busStep (e : BusEvent) (s : State) : KeepsFloats s (busStep e s) := by
  cases e with
  | rx b =>
    obtain he | ⟨q, -, he⟩ := busReceive_cases b s
    · rw [busStep, he]
      exact .refl s
    · rw [busStep, he]
      exact rfl
  | txreq =>
    obtain he | ⟨b, q, -, he⟩ := busTransmit_cases s
    · rw [busStep, he]
      exact rfl
    · rw [busStep, he]
      exact rfl
  | buserr => exact rfl

theorem keepsFloats_tryBus (s : State) : KeepsFloats s (tryBus s) := by
  obtain ⟨n, he | ⟨e, -, he⟩⟩ := tryBus_cases s
  · rw [he]
    exact rfl
  · rw [he]
    exact keepsFloats_busStep e _

/-- What a step may do to the registers that `FloatSafe` reads: one of the moves, a conversion with the interrupts unmasked,
or a reset. -/
inductive FloatStep (s t : State) : Prop where
  | move (h : FloatMove s t)
  | conversion {raw : Half} (hmask : s.intMask = false) (h : t = convComplete raw { s with pendConv := none })
  | reset (h : t = holdReset s)

/-- An agent's step. -/
theorem floatStep_of_runAgent {a : Agent} (h : runAgent a s = .next t) : FloatStep s t := by
  obtain rfl | ⟨hen, h⟩ := runAgent_eq_next h
  · exact .move (.keep rfl)
  cases a with
  | tick =>
    obtain rfl := Host.Outcome.next.inj h
    exact .move (.keep rfl)
  | conv =>
    obtain ⟨hrst, hpend, hmask⟩ := enabled_conv_iff.1 hen
    obtain ⟨raw, hraw⟩ := Option.ne_none_iff_exists'.1 hpend
    have hserved := (runAgent_enabled hen).symm.trans (runAgent_conv hrst hmask hraw)
    exact .conversion hmask (Host.Outcome.next.inj (h.symm.trans hserved))
  | bus =>
    obtain rfl := Host.Outcome.next.inj h
    exact .move (.keep (keepsFloats_tryBus s))
  | main => exact .move (mainMove_of_mainStep h).floatMove
  | settle =>
    obtain rfl := Host.Outcome.next.inj h
    exact .move (.keep rfl)

/-- An input. -/
theorem floatStep_of_applyInput {i : Input} (h : applyInput i s = .next t) : FloatStep s t := by
  cases i with
  | tick =>
    obtain rfl | rfl := arriveTick_eq_next h
    · exact .move (.keep rfl)
    · exact .move (.keep rfl)
  | conv raw =>
    obtain rfl | ⟨-, rfl⟩ := arriveConv_eq_next h
    · exact .move (.keep rfl)
    · exact .move (.keep rfl)
  | bus e =>
    obtain ⟨latch, n, rfl⟩ := arriveBus_eq_next h
    exact .move (.keep rfl)
  | probe active =>
    obtain rfl := Host.Outcome.next.inj h
    exact .move (.keep rfl)
  | assertReset =>
    obtain rfl := Host.Outcome.next.inj h
    split
    · exact .move (.keep rfl)
    · exact .reset rfl
  | releaseReset =>
    obtain rfl := Host.Outcome.next.inj h
    exact .move (.keep rfl)
  | run a => exact floatStep_of_runAgent h

/-- Any step, from the state with the input taken or the free value drawn. -/
theorem floatStep_of_step (h : step s = .next t) : ∃ inputs n, FloatStep { s with inputs := inputs, draws := n } t := by
  obtain ⟨i, rest, -, hi⟩ | ⟨a, n, ha⟩ := step_eq_next h
  · exact ⟨rest, s.draws, floatStep_of_applyInput hi⟩
  · exact ⟨s.inputs, n, floatStep_of_runAgent ha⟩

/-! ## What every step keeps -/

/-- A step keeps the float registers tame, provided that the coefficient is in range where a conversion can be served and the
count is not 0 where a calibration runs (R125). -/
theorem FloatStep.floatsTame (hs : FloatStep s t) (h : floatsTame s)
    (halpha : s.intMask = false → alphaInRange s.settings.filterAlpha)
    (hcount : s.calRemaining ≠ 0 → s.settings.calibrationSampleCount ≠ 0) : floatsTame t := by
  cases hs with
  | move hm => exact hm.floatsTame h
  | conversion hmask he =>
    rw [he]
    exact floatsTame_convComplete _ (floatsTame_congr (s := s) rfl h) (halpha hmask) hcount
  | reset he =>
    rw [he]
    exact floatsTame_of_zero (chan_holdReset s)

/-- A conversion starts no calibration, and changes no premise beside (R121). -/
theorem FloatPremise.convComplete (h : FloatPremise s) (raw : Half) : FloatPremise (convComplete raw s) := by
  have hcounting : (Machine.convComplete raw s).calRemaining ≠ 0 → s.calRemaining ≠ 0 := by
    intro hne he
    rw [convComplete_of_armed raw he] at hne
    exact hne he
  rw [(convComplete_frame raw s).1]
  exact
    { alpha := h.alpha
      stored := h.stored_of_nv rfl
      counting := fun hne => h.counting (hcounting hne) }

/-- A reset returns to boot step B1, with no calibration and the store as it was (R230). -/
theorem FloatPremise.holdReset (h : FloatPremise s) : FloatPremise (holdReset s) where
  alpha hne := absurd rfl hne
  stored := h.stored_of_nv rfl
  counting hne := absurd rfl hne

theorem FloatStep.premise (hs : FloatStep s t) (hp : s.params.ok = true) (h : FloatPremise s) : FloatPremise t := by
  cases hs with
  | move hm => exact hm.premise hp h
  | conversion hmask he =>
    have hserved : FloatPremise { s with pendConv := none } := ⟨h.alpha, h.stored_of_nv rfl, h.counting⟩
    rw [he]
    exact hserved.convComplete _
  | reset he =>
    rw [he]
    exact h.holdReset

/-- Interrupts are unmasked only when the settings are loaded (R231). -/
theorem FloatPremise.alpha_of_unmasked (h : FloatPremise s) (hinv : Invariant s) (hmask : s.intMask = false) :
    alphaInRange s.settings.filterAlpha := by
  have hboot : s.boot = .done := by
    by_contra hne
    simpa [hmask] using hinv.mask.2 hne
  exact h.alpha (by simp [hboot]) (by simp [hboot])

/-- Every step keeps what `FloatSafe` says. -/
theorem FloatSafe.step (h : FloatSafe s) (hinv : Invariant s) (hs : step s = .next t) : FloatSafe t := by
  obtain ⟨hfloats, hpremise⟩ := (floatSafe_iff s).1 h
  obtain ⟨inputs, n, hstep⟩ := floatStep_of_step hs
  have hdrawn : FloatPremise { s with inputs := inputs, draws := n } :=
    ⟨hpremise.alpha, hpremise.stored_of_nv rfl, hpremise.counting⟩
  have htame : floatsTame t := hstep.floatsTame (floatsTame_congr (s := s) rfl hfloats)
    (hpremise.alpha_of_unmasked hinv) (fun hcal => (hpremise.counting hcal).2)
  exact (floatSafe_iff t).2 ⟨htame, hstep.premise hinv.params hdrawn⟩

end

/-- The blank block of the model is not valid (R157, log 3), and no calibration runs at reset. -/
theorem floatSafe_reset : FloatSafe State.reset where
  floats := floatsTame_of_zero (by decide)
  alpha hne := absurd rfl hne
  stored hv := absurd hv (by decide)
  counting hne := absurd rfl hne

/-- Settles O29: the reset state, the invariant, and one step from any tame state. -/
theorem floatRegistersStayTame : Obligations.FloatRegistersStayTame := by
  refine ⟨floatSafe_reset, fun s t hinv h hs => h.step hinv hs, fun s t h halpha hcount hs => ?_⟩
  obtain ⟨inputs, n, hstep⟩ := floatStep_of_step hs
  exact hstep.floatsTame (floatsTame_congr (s := s) rfl h) (fun _ => halpha) hcount

end Sys2Proof.Machine

/-! PROOF. The Trigger and the Debounce phase as steps of `Main` (O30, O31, O33), and the two forms of the expiry test (O32). -/
namespace Sys2Proof.Machine

/-! ## The two tests -/

theorem isIdle_iff (d : Debounce) : isIdle d = true ↔ d.counter = 0 := by simp [isIdle]

/-- The table of the fire condition (R131): no mode beyond 3 is in it. -/
theorem fireCondition_iff (mode : Byte) (idle flag probe : Bool) :
    fireCondition mode idle flag probe = true ↔
      (mode = 0 ∧ idle = true ∧ flag = true ∧ probe = true) ∨
      (mode = 1 ∧ idle = true ∧ flag = true) ∨
      (mode = 2 ∧ probe = true) ∨
      (mode = 3 ∧ ((idle = true ∧ flag = true) ∨ probe = true)) := by
  simp only [fireCondition, ← BitVec.toNat_inj (x := mode)]
  match mode.toNat with
  | 0 => simp [and_assoc]
  | 1 => simp
  | 2 => simp
  | 3 => simp
  | n + 4 => simp

/-- The expiry test (R136, R137) in exact numbers. -/
theorem debounceExpired_iff (now : Word) (d : Debounce) :
    debounceExpired now d = true ↔
      d.counter.toNat ≤ (now.toNat + 2 ^ 32 - d.startTime.toNat) % 2 ^ 32 := by
  have helapsed : (now - d.startTime).toNat = (now.toNat + 2 ^ 32 - d.startTime.toNat) % 2 ^ 32 := by
    have hstart := d.startTime.isLt
    rw [BitVec.toNat_sub, ← Nat.sub_add_comm hstart.le, Nat.add_comm]
  rw [debounceExpired, decide_eq_true_iff, helapsed]

/-- Settles O32: by whether the clock has wrapped since the fire action, and so whether the difference borrows `2 ^ 32` (R140). -/
theorem branchingFormAgrees : Obligations.BranchingFormAgrees := by
  intro now startTime counter d
  have hnow := now.isLt
  have hstart := startTime.isLt
  have hcounter := counter.isLt
  have hd : d = startTime.toNat + counter.toNat := rfl
  rw [debounceExpired_iff]
  dsimp only
  by_cases hwrap : now.toNat < startTime.toNat
  · rw [Nat.mod_eq_of_lt (by omega)]
    omega
  · have hdiff : now.toNat + 2 ^ 32 - startTime.toNat = now.toNat - startTime.toNat + 2 ^ 32 := by omega
    rw [hdiff, Nat.add_mod_right, Nat.mod_eq_of_lt (by omega)]
    omega

/-! ## The two phases -/

/-- The Trigger phase on a state that meets the fire condition: the fire action, and the phase moves (R130, R134). -/
theorem triggerEvaluate_of_fires {s : State}
    (h : fireCondition s.settings.trigMode (isIdle s.debounce) s.triggered s.probeActive = true) :
    triggerEvaluate s = { s with
      trigOut := true
      triggered := false
      intMask := false
      debounce := ⟨s.settings.debounceLengthMillis, s.clock.millis⟩
      phase := .debounce } := by
  rw [triggerEvaluate, if_pos h]
  rfl

/-- The Trigger phase on a state that does not meet it: the phase moves and the flag stays (R135). -/
theorem triggerEvaluate_of_not_fires {s : State}
    (h : ¬ fireCondition s.settings.trigMode (isIdle s.debounce) s.triggered s.probeActive = true) :
    triggerEvaluate s = { s with phase := .debounce } := by
  rw [triggerEvaluate, if_neg h]

section
variable {s : State}

/-- At the Trigger phase the step of `Main` is the trigger controller's (R130, R236). -/
theorem runAgent_main_trigger (hready : MainReady s) (hphase : s.phase = .trigger) :
    runAgent .main s = .next (triggerEvaluate s) := by
  rw [runAgent_main hready.toMainRuns]
  simp only [mainStep, hready.boot, hready.between, phaseStep, hphase]

/-- At the Debounce phase the step of `Main` is the expiry check (R136, R236). -/
theorem runAgent_main_debounce (hready : MainReady s) (hphase : s.phase = .debounce) :
    runAgent .main s = .next (debounceCheck s) := by
  rw [runAgent_main hready.toMainRuns]
  simp only [mainStep, hready.boot, hready.between, phaseStep, hphase]

/-- The Trigger phase leaves `Main` between two phase steps. -/
theorem MainReady.triggerEvaluate (hready : MainReady s) : MainReady (triggerEvaluate s) := by
  obtain he | he := triggerEvaluate_cases s
  · rw [he]
    exact { hready with }
  · rw [he]
    exact { hready with }

end

/-- Settles O30: by whether the state meets the fire condition. -/
theorem triggerPhaseFiresByMode : Obligations.TriggerPhaseFiresByMode := by
  intro s hready hphase
  have htable := fireCondition_iff s.settings.trigMode (isIdle s.debounce) s.triggered s.probeActive
  simp only [isIdle_iff] at htable
  rw [runAgent_main_trigger hready hphase]
  congr 1
  split
  case isTrue h => exact triggerEvaluate_of_fires (htable.2 h)
  case isFalse h => exact triggerEvaluate_of_not_fires (mt htable.1 h)

/-- Settles O31: by whether the pulse has expired. -/
theorem debouncePhaseExpires : Obligations.DebouncePhaseExpires := by
  intro s hready hphase
  rw [runAgent_main_debounce hready hphase]
  obtain ⟨hexpired, he⟩ | ⟨hlive, he⟩ := debounceCheck_cases s
  · rw [he, if_pos ((debounceExpired_iff _ _).1 hexpired)]
  · rw [he, if_neg (mt (debounceExpired_iff _ _).2 (Bool.eq_false_iff.1 hlive))]

/-- Settles O33: mode 1 fires on the flag in Idle, and what it loads has expired at once (R139). -/
theorem zeroLengthPulseIsOnePhase : Obligations.ZeroLengthPulseIsOnePhase := by
  intro s hready hphase hlength hmode hidle hflag
  have hfires : fireCondition s.settings.trigMode (isIdle s.debounce) s.triggered s.probeActive = true :=
    (fireCondition_iff _ _ _ _).2 (.inr (.inl ⟨hmode, (isIdle_iff _).2 hidle, hflag⟩))
  have hfired := triggerEvaluate_of_fires hfires
  have hcounter : (triggerEvaluate s).debounce.counter = 0 := by rw [hfired]; exact hlength
  refine ⟨triggerEvaluate s, debounceCheck (triggerEvaluate s), runAgent_main_trigger hready hphase, by rw [hfired],
    hcounter, runAgent_main_debounce hready.triggerEvaluate (by rw [hfired]), ?_⟩
  obtain ⟨-, he⟩ | ⟨hlive, -⟩ := debounceCheck_cases (triggerEvaluate s)
  · rw [he]
    exact ⟨rfl, rfl, rfl⟩
  · simp [debounceExpired_of_counter_eq_zero hcounter] at hlive

end Sys2Proof.Machine

/-! PROOF. The clock and the settings store (R150 to R161): a tick in exact numbers (O36), the layout of the persistent block and
its checksums (O38), boot step B2 (O39), and who writes the persistent block (O40). -/
namespace Sys2Proof.Machine

/-! ## The tick -/

section
variable {s : State}

/-- The fraction is a sum of two values below `FRACT_MAX`, so that it wraps once at most (R150). -/
theorem microFraction_clockTick (hinc : s.params.tickFractInc < s.params.fractMax) (hmax : s.params.fractMax ≤ 256)
    (hf : s.clock.microFraction.toNat < s.params.fractMax) : (clockTick s).clock.microFraction.toNat =
      (s.clock.microFraction.toNat + s.params.tickFractInc) % s.params.fractMax := by
  rw [wrap_eq hf hinc.le]
  simp only [clockTick, BitVec.toNat_ofNat, decide_eq_true_eq]
  split_ifs <;> omega

/-- The milliseconds grow by the whole part and the carry, and wrap (R150). -/
theorem millis_clockTick (hinc : s.params.tickFractInc < s.params.fractMax)
    (hf : s.clock.microFraction.toNat < s.params.fractMax) : (clockTick s).clock.millis.toNat =
      (s.clock.millis.toNat + s.params.tickMsInc +
        (s.clock.microFraction.toNat + s.params.tickFractInc) / s.params.fractMax) % 2 ^ 32 := by
  rw [Nat.add_div (Nat.zero_lt_of_lt hf), Nat.div_eq_of_lt hf, Nat.div_eq_of_lt hinc, Nat.mod_eq_of_lt hf,
    Nat.mod_eq_of_lt hinc]
  simp only [clockTick, BitVec.toNat_add, BitVec.toNat_ofNat, Nat.add_mod_mod, Nat.add_assoc, decide_eq_true_eq, Nat.zero_add]

/-- The count of ticks grows by one, and wraps (R150). -/
theorem overflowCount_clockTick (s : State) :
    (clockTick s).clock.overflowCount.toNat = (s.clock.overflowCount.toNat + 1) % 2 ^ 32 :=
  BitVec.toNat_add _ _

/-- A pending tick that is not masked is served (R150, R213). -/
theorem runAgent_tick (hrst : s.rst = false) (hmask : s.intMask = false) (hpend : s.pendTick = true) :
    runAgent .tick s = .next { s with pendTick := false, clock := (clockTick s).clock } := by
  rw [runAgent_enabled (enabled_tick_iff.2 ⟨hrst, hpend, hmask⟩), agentStep, serveTick_eq]

end

/-- Settles O36: the tick is served, and each of the three clock registers moves as its rule says. -/
theorem clockTickCarries : Obligations.ClockTickCarries := by
  intro s hrst hmask hpend hinc hmax hf
  exact ⟨_, runAgent_tick hrst hmask hpend, rfl, microFraction_clockTick hinc hmax hf, millis_clockTick hinc hf,
    overflowCount_clockTick s⟩

/-! ## The packed block -/

/-- The high byte of a `u16` is its bits 8 to 15 (R42). -/
theorem highByte_eq_extractLsb' (v : Half) : highByte v = v.extractLsb' 8 8 :=
  BitVec.eq_of_toNat_eq (by simp [highByte])

/-- The low byte of a `u16` is its bits 0 to 7 (R42). -/
theorem lowByte_eq_extractLsb' (v : Half) : lowByte v = v.extractLsb' 0 8 :=
  BitVec.setWidth_eq_extractLsb' (by decide)

/-- `Unpack` reads back what `Pack` wrote, field by field (R156). -/
theorem unpackSettings_packSettings (x : Settings) : unpackSettings (packSettings x) = x :=
  (Settings.mk.injEq ..).mpr ⟨rfl, le32_le32Bytes _, le32_le32Bytes _, le32_le32Bytes _, le16_lowByte_highByte _⟩

/-- `Unpack` reads bytes 0 to 14 only (R156). -/
theorem unpackSettings_set {k : Nat} (hk : 15 ≤ k) (B : List Byte) (x : Byte) :
    unpackSettings (B.set k x) = unpackSettings B := by
  have hbyte : ∀ i, i < 15 → (B.set k x).getD i 0 = B.getD i 0 := by
    intro i hi
    rw [List.getD_eq_getElem?_getD, List.getElem?_set_ne (by omega), ← List.getD_eq_getElem?_getD]
  simp only [unpackSettings, hbyte, Nat.reduceLT]

/-- A whole block is valid exactly when its last two bytes are the checksum and its complement (R157). -/
theorem blockValid_iff {B : List Byte} (hB : B.length = 17) : blockValid B = true ↔
    B[15]? = some (xorAll (B.take 15)) ∧ B[16]? = some (~~~ xorAll (B.take 15)) := by
  have h15 : 15 < B.length := by omega
  have h16 : 16 < B.length := by omega
  simp only [blockValid, Bool.and_eq_true, decide_eq_true_eq, List.getD_eq_getElem _ _ h15, List.getD_eq_getElem _ _ h16,
    List.getElem?_eq_getElem h15, List.getElem?_eq_getElem h16, Option.some.injEq]
  constructor
  · rintro ⟨hxor, hneg⟩
    exact ⟨hxor, hxor ▸ hneg⟩
  · rintro ⟨hxor, hneg⟩
    exact ⟨hxor, hxor.symm ▸ hneg⟩

/-- A packed block carries both checksums (R157). -/
theorem blockValid_packSettings (x : Settings) : blockValid (packSettings x) = true :=
  (blockValid_iff (packSettings_length x)).2 ⟨rfl, rfl⟩

/-- A byte written into a valid block leaves it valid only if the byte stood there: a field byte changes the xor, a checksum
byte is fixed by the fields (R157). -/
theorem getElem?_of_blockValid_set {B : List Byte} {k : Nat} {b : Byte} (hB : B.length = 17) (hk : k < 17)
    (hv : blockValid B = true) (hset : blockValid (B.set k b) = true) : B[k]? = some b := by
  obtain ⟨hxor, hneg⟩ := (blockValid_iff hB).1 hv
  obtain ⟨hxor', hneg'⟩ := (blockValid_iff (by simpa using hB)).1 hset
  have hwritten : (B.set k b)[k]? = some b := List.getElem?_set_self (by omega)
  by_cases hfield : k < 15
  · rw [List.getElem?_set_ne (by omega), hxor, List.take_set] at hxor'
    have hin : k < (B.take 15).length := by
      rw [List.length_take]
      omega
    have hbyte := getElem?_of_xorAll_set hin (Option.some.inj hxor').symm
    rwa [List.getElem?_take_of_lt hfield] at hbyte
  · have hfields : (B.set k b).take 15 = B.take 15 := List.take_set_of_le (Nat.not_lt.1 hfield)
    rw [hfields] at hxor' hneg'
    obtain rfl | rfl : k = 15 ∨ k = 16 := by omega
    · exact hxor.trans (hxor'.symm.trans hwritten)
    · exact hneg.trans (hneg'.symm.trans hwritten)

/-- Where the bytes of each field stand, least significant byte first (R44, R156). -/
theorem packSettings_layout (x : Settings) :
    (∀ i, i < 4 → (packSettings x)[1 + i]? = some (x.thresholdFactor.extractLsb' (8 * i) 8) ∧
      (packSettings x)[5 + i]? = some (x.filterAlpha.extractLsb' (8 * i) 8) ∧
      (packSettings x)[9 + i]? = some (x.calibrationSampleCount.extractLsb' (8 * i) 8)) ∧
    ∀ i, i < 2 → (packSettings x)[13 + i]? = some (x.debounceLengthMillis.extractLsb' (8 * i) 8) := by
  constructor
  · intro i hi
    interval_cases i <;> exact ⟨rfl, rfl, rfl⟩
  · intro i hi
    interval_cases i
    · exact congrArg some (lowByte_eq_extractLsb' _)
    · exact congrArg some (highByte_eq_extractLsb' _)

/-- Settles O38: the layout, `Unpack` of `Pack`, both checksums of any block, and what one changed byte does to a packed one. -/
theorem packedSettingsReadBack : Obligations.PackedSettingsReadBack := by
  refine ⟨fun x => ?_, fun B hB => ⟨?_, fun x y => ?_⟩, by decide, by decide⟩
  · obtain ⟨hwords, hhalf⟩ := packSettings_layout x
    refine ⟨packSettings_length x, rfl, hwords, hhalf, rfl, rfl, unpackSettings_packSettings x, blockValid_packSettings x,
      fun k b hk hchanged => ?_⟩
    exact Bool.eq_false_iff.2 fun hset =>
      hchanged (getElem?_of_blockValid_set (packSettings_length x) hk (blockValid_packSettings x) hset)
  · rw [blockValid_iff hB]
    exact and_congr_right fun hxor => by rw [hxor, Option.map_some]
  · rw [unpackSettings_set (by decide), unpackSettings_set (by decide)]

/-! ## Boot step B2 -/

/-- At boot step B2 `Main` loads the settings (R233). -/
theorem runAgent_main_b2 {s : State} (hrst : s.rst = false) (hidle : s.mainBusy = false) (hboot : s.boot = .b2) :
    runAgent .main s = .next { settingsLoad s with boot := .b3 } := by
  rw [runAgent_enabled (enabled_main_iff.2 ⟨hrst, hidle⟩)]
  simp only [agentStep, mainStep, hboot]

/-- Settles O39: by whether the stored block is valid. -/
theorem bootLoadsSettings : Obligations.BootLoadsSettings := by
  intro s hrst hidle hboot
  rw [runAgent_main_b2 hrst hidle hboot]
  obtain ⟨hv, he⟩ | ⟨hv, he⟩ := settingsLoad_cases s
  · rw [he]
    exact ⟨fun _ => rfl, fun hinvalid => absurd hv (by simp [hinvalid])⟩
  · refine ⟨fun hvalid => absurd hvalid (by simp [hv]), fun _ => ?_⟩
    rw [he]
    generalize hnv : Memory.writeRun nvBytes [] 0 (packSettings (defaultSettings s.params)) = nv
    have hread : ∀ t : State, t.nv = nv → nvRead t = packSettings (defaultSettings s.params) :=
      fun t ht => nvRead_of_nv_eq (packSettings_length _) (ht.trans hnv.symm)
    refine ⟨_, rfl, rfl, hread _ rfl, ?_, rfl⟩
    rw [hread _ rfl]
    exact blockValid_packSettings _

/-! ## Who writes the persistent block -/

section
variable {s t : State}

theorem KeepsFloats.nv (h : KeepsFloats s t) : t.nv = s.nv := congrArg FloatRegs.nv h

/-- Every row completes, and opcode 0x0A is the one row that may write the persistent block (R161). -/
theorem exec_nv (i : Instr) (s : State) :
    ∃ t, exec i s = .next t ∧ (t.nv = s.nv ∨ ∃ p, i = .storeSettings p) := by
  cases i with
  | storeSettings p => exact ⟨_, rfl, .inr ⟨p, rfl⟩⟩
  | getIdAndVersion p => exact ⟨_, rfl, .inl rfl⟩
  | getThreshold p => exact ⟨_, rfl, .inl rfl⟩
  | getTriggerMode p => exact ⟨_, rfl, .inl rfl⟩
  | getAlpha p => exact ⟨_, rfl, .inl rfl⟩
  | readCurrentValues p => exact ⟨_, rfl, .inl rfl⟩
  | readCurrentAverages p => exact ⟨_, rfl, .inl rfl⟩
  | reset p => exact ⟨_, rfl, .inl rfl⟩
  | recalibrate p => exact ⟨_, rfl, .inl rfl⟩
  | setThreshold p =>
    cases p with
    | nil => exact ⟨_, rfl, .inl rfl⟩
    | cons b p => exact ⟨_, rfl, .inl rfl⟩
  | setAlpha p =>
    cases p with
    | nil => exact ⟨_, rfl, .inl rfl⟩
    | cons b p => exact ⟨_, rfl, .inl rfl⟩
  | setTriggerMode p =>
    cases p with
    | nil => exact ⟨_, rfl, .inl rfl⟩
    | cons b p =>
      simp only [exec, execSetTriggerMode, operandU8]
      split
      · exact ⟨_, rfl, .inl rfl⟩
      · exact ⟨_, rfl, .inl rfl⟩
  | _ => exact ⟨_, exec_response rfl, .inl (keepsFloats_buildFrame _ _ s).nv⟩

/-- A row that has written the persistent block is `StoreSettings` (R161). -/
theorem storeSettings_of_nv_ne {i : Instr} (h : exec i s = .next t) (hnv : t.nv ≠ s.nv) : ∃ p, i = .storeSettings p := by
  obtain ⟨u, hu, hcases⟩ := exec_nv i s
  obtain rfl : u = t := Host.Outcome.next.inj (hu.symm.trans h)
  exact hcases.resolve_left hnv

/-- Only opcode 0x0A selects the row of `StoreSettings` (R69). -/
theorem requestOf_eq_storeSettings {op : Byte} {payload p : List Byte}
    (h : requestOf op payload = .ok (.storeSettings p)) : op = 0x0A := by
  unfold requestOf at h
  split at h
  case h_10 hop => exact BitVec.eq_of_toNat_eq hop
  all_goals simp at h

/-- The dispatcher writes the persistent block on opcode 0x0A only (R161). -/
theorem frameOpcode_of_dispatch (h : dispatchFrame s = .next t) (hnv : t.nv ≠ s.nv) : frameOpcode s = 0x0A := by
  obtain ⟨-, ⟨i, hi, he⟩ | ⟨-, rfl⟩⟩ := dispatchFrame_eq_next h
  · obtain ⟨p, rfl⟩ := storeSettings_of_nv_ne he hnv
    exact requestOf_eq_storeSettings hi
  · exact absurd rfl hnv

/-- A step of `Main` that writes the persistent block is boot step B2 with an invalid block, or the dispatch of opcode 0x0A
(R161). -/
theorem MainMove.nv_written (hmove : MainMove s t) (h : Invariant s) (hnv : t.nv ≠ s.nv) :
    (s.boot = .b2 ∧ blockValid (nvRead s) = false) ∨
      (s.boot = .done ∧ s.phase = .scan ∧ s.micro = .dispatch ∧ frameOpcode s = 0x0A) := by
  cases hmove with
  | b2 hb =>
    obtain ⟨-, he⟩ | ⟨hv, -⟩ := settingsLoad_cases s
    · exact absurd (congrArg State.nv he) hnv
    · exact .inl ⟨hb, hv⟩
  | dispatch hb hm hd => exact .inr ⟨hb, (h.held (by simp [hm])).phase, hm, frameOpcode_of_dispatch hd hnv⟩
  | b1 => exact absurd rfl hnv
  | b3 => exact absurd rfl hnv
  | b4 => exact absurd rfl hnv
  | scan _ _ _ hs =>
    obtain ⟨q, -, ⟨_, _, -, rfl⟩ | ⟨_, -, ⟨-, rfl⟩ | ⟨-, q', -, rfl⟩⟩⟩ := scanFrame_eq_next hs
    · exact absurd rfl hnv
    · exact absurd rfl hnv
    · exact absurd rfl hnv
  | trigger =>
    obtain he | he := triggerEvaluate_cases s
    · exact absurd (congrArg State.nv he) hnv
    · exact absurd (congrArg State.nv he) hnv
  | debounce =>
    obtain ⟨-, he⟩ | ⟨-, he⟩ := debounceCheck_cases s
    · exact absurd (congrArg State.nv he) hnv
    · exact absurd (congrArg State.nv he) hnv
  | snapshot _ _ hs =>
    obtain ⟨m, hm, -⟩ := snapshotStep_cases _ _ s
    obtain rfl := Host.Outcome.next.inj (hm.symm.trans hs)
    exact absurd rfl hnv
  | build _ hm hx =>
    obtain ⟨p, rfl⟩ := storeSettings_of_nv_ne hx hnv
    exact absurd (h.building _ hm) (by simp [Instr.isRequest])
  | remove _ _ hr =>
    obtain ⟨q, -, rfl⟩ := removeFrame_eq_next hr
    exact absurd rfl hnv

/-- A conversion writes no persistent storage (R110). -/
theorem serveConv_nv (s : State) : (serveConv s).nv = s.nv := by
  unfold serveConv
  split
  next raw _ => exact (congrArg State.nv (convComplete_frame raw { s with pendConv := none }).1 :)
  next => rfl

end

/-- Settles O40: the handlers and the end of the settle delay keep the block, and so does every step of `Main` but the two. -/
theorem nvIsWrittenOnTwoOccasions : Obligations.NvIsWrittenOnTwoOccasions := by
  intro a s t h hs hnv
  obtain rfl | ⟨-, hs⟩ := runAgent_eq_next hs
  · exact absurd rfl hnv
  cases a with
  | main => exact ⟨rfl, (mainMove_of_mainStep hs).nv_written h hnv⟩
  | tick =>
    obtain rfl := Host.Outcome.next.inj hs
    exact absurd rfl hnv
  | conv =>
    obtain rfl := Host.Outcome.next.inj hs
    exact absurd (serveConv_nv s) hnv
  | bus =>
    obtain rfl := Host.Outcome.next.inj hs
    exact absurd (keepsFloats_tryBus s).nv hnv
  | settle =>
    obtain rfl := Host.Outcome.next.inj hs
    exact absurd rfl hnv

end Sys2Proof.Machine

/-! PROOF. The request handlers (R174 to R188): the next state of each, said once, and from it the frame of every request
(O47) and the commands that act on the registers alone (O54 to O56). -/
namespace Sys2Proof.Machine

/-- An outcome is one next state at most. -/
theorem next_unique {o : Host.Outcome State Fault Refusal} {t u : State} (ht : o = .next t) (hu : o = .next u) : t = u :=
  Host.Outcome.next.inj (ht.symm.trans hu)

/-! ## The commands that answer at once -/

/-- The command `i` answers with the row `r`: its handler only calls the frame builder with `r`, which carries the opcode of
`i` (R171). -/
structure AnswersWith (i r : Instr) (s : State) : Prop where
  opcode : i.opcode = r.opcode
  response : r.isRequest = false
  exec_eq : exec i s = .next { s with micro := .build r }

section
variable (p : List Byte) (s : State)

/-- R174. -/
theorem getIdAndVersion_answers :
    AnswersWith (.getIdAndVersion p) (.getIdAndVersionResp s.params.boardId s.params.boardVersion) s := ⟨rfl, rfl, rfl⟩

/-- R175: the low byte. -/
theorem getThreshold_answers :
    AnswersWith (.getThreshold p) (.getThresholdResp (BitVec.ofNat 8 s.settings.thresholdFactor.toNat)) s :=
  ⟨rfl, rfl, rfl⟩

/-- R183. -/
theorem getTriggerMode_answers : AnswersWith (.getTriggerMode p) (.getTriggerModeResp s.settings.trigMode) s :=
  ⟨rfl, rfl, rfl⟩

/-- R187. -/
theorem getAlpha_answers : AnswersWith (.getAlpha p) (.getAlphaResp (alphaToPercent s.settings.filterAlpha)) s :=
  ⟨rfl, rfl, rfl⟩

/-! ## The other commands -/

/-- The request of a snapshot (R180, R181). -/
def snapRequest : SnapKind → List Byte → Instr
  | .values => .readCurrentValues
  | .averages => .readCurrentAverages

/-- Opcodes 0x04 and 0x05 take channel 0 in the first of their critical sections (R49). -/
theorem exec_snapRequest (kind : SnapKind) : exec (snapRequest kind p) s =
    .next { s with intMask := false, micro := .snapshot kind [(snapChannel kind 0 s).1] } := by
  cases kind <;> rfl

/-- A set command whose payload is too short has no effect (R202). -/
theorem exec_setThreshold_nil : exec (.setThreshold []) s = .next s := rfl

theorem exec_setTriggerMode_nil : exec (.setTriggerMode []) s = .next s := rfl

theorem exec_setAlpha_nil : exec (.setAlpha []) s = .next s := rfl

/-- R176. -/
theorem exec_setThreshold_cons (b : Byte) (extra : List Byte) : exec (.setThreshold (b :: extra)) s = .next { s with
    settings := { s.settings with thresholdFactor := zext32 b }
    intMask := false } := rfl

/-- R182: a mode up to 3 is written, unmasked. -/
theorem exec_setTriggerMode_of_le {m : Byte} (hm : m.toNat ≤ 3) (extra : List Byte) :
    exec (.setTriggerMode (m :: extra)) s = .next { s with settings := { s.settings with trigMode := m } } := by
  simp only [exec, execSetTriggerMode, operandU8, hm, if_true]

/-- R182, R203: a mode above 3 is ignored. -/
theorem exec_setTriggerMode_of_lt {m : Byte} (hm : 3 < m.toNat) (extra : List Byte) :
    exec (.setTriggerMode (m :: extra)) s = .next s := by
  simp only [exec, execSetTriggerMode, operandU8, Nat.not_le.2 hm, if_false]

/-- R188. -/
theorem exec_setAlpha_cons (b : Byte) (extra : List Byte) : exec (.setAlpha (b :: extra)) s = .next { s with
    settings := { s.settings with filterAlpha := percentToAlpha (min b.toNat 100) }
    intMask := false } := rfl

/-- R184: the defaults, then the restart of the calibration. -/
theorem exec_reset : exec (.reset p) s =
    .next { restartCalibration { s with settings := defaultSettings s.params } with intMask := false } := rfl

/-- R185. -/
theorem exec_recalibrate : exec (.recalibrate p) s = .next { restartCalibration s with intMask := false } := rfl

end

/-! ## The frames -/

/-- Settles O54: the restart of the calibration runs on the state with the default settings. -/
theorem resetCommandRestoresDefaults : Obligations.ResetCommandRestoresDefaults := fun s p =>
  ⟨_, exec_reset p s, rfl, chan_restartCalibration { s with settings := defaultSettings s.params }⟩

/-- Settles O55: the restart of the calibration, in a critical section of its own. -/
theorem recalibrateRestartsOnly : Obligations.RecalibrateRestartsOnly := fun s p =>
  ⟨_, exec_recalibrate p s, rfl, chan_restartCalibration s, Iff.rfl, rfl⟩

/-- Settles O56: a packed block stored is read back whole, and is valid. -/
theorem storeSettingsPersists : Obligations.StoreSettingsPersists := by
  intro s p
  rw [exec_storeSettings]
  generalize hnv : Memory.writeRun nvBytes [] 0 (packSettings s.settings) = nv
  have hread : nvRead { s with nv := nv, mainBusy := true } = packSettings s.settings :=
    nvRead_of_nv_eq (packSettings_length s.settings) hnv.symm
  refine ⟨_, rfl, rfl, hread, ?_⟩
  rw [hread]
  exact ⟨blockValid_packSettings s.settings, unpackSettings_packSettings s.settings⟩

/-- A channel of which only the centerline was written differs in its centerline only. -/
theorem eq_with_own_centerline {x y : Channel} {z : F32} (h : x = { y with centerline := z }) :
    x = { y with centerline := x.centerline } := by
  rw [h]

section
variable {p : List Byte} {s t : State}

/-- `SetThreshold` changes its field only, in a critical section, or nothing at all (R190). -/
theorem setThreshold_frame (h : exec (.setThreshold p) s = .next t) :
    t = { s with settings := { s.settings with thresholdFactor := t.settings.thresholdFactor },
                 intMask := if p.isEmpty then s.intMask else false } := by
  cases p with
  | nil =>
    obtain rfl := next_unique (exec_setThreshold_nil s) h
    rfl
  | cons b extra =>
    obtain rfl := next_unique (exec_setThreshold_cons s b extra) h
    rfl

/-- `SetTriggerMode` changes its field only (R190). -/
theorem setTriggerMode_frame (h : exec (.setTriggerMode p) s = .next t) :
    t = { s with settings := { s.settings with trigMode := t.settings.trigMode } } := by
  cases p with
  | nil =>
    obtain rfl := next_unique (exec_setTriggerMode_nil s) h
    rfl
  | cons m extra =>
    obtain hm | hm := Nat.lt_or_ge 3 m.toNat
    · obtain rfl := next_unique (exec_setTriggerMode_of_lt s hm extra) h
      rfl
    · obtain rfl := next_unique (exec_setTriggerMode_of_le s hm extra) h
      rfl

/-- `SetAlpha` changes its field only, in a critical section, or nothing at all (R190). -/
theorem setAlpha_frame (h : exec (.setAlpha p) s = .next t) :
    t = { s with settings := { s.settings with filterAlpha := t.settings.filterAlpha },
                 intMask := if p.isEmpty then s.intMask else false } := by
  cases p with
  | nil =>
    obtain rfl := next_unique (exec_setAlpha_nil s) h
    rfl
  | cons b extra =>
    obtain rfl := next_unique (exec_setAlpha_cons s b extra) h
    rfl

end

/-- Settles O47, command by command: each handler's next state is the one said above. -/
theorem commandsTouchOnlyTheirRow : Obligations.CommandsTouchOnlyTheirRow := by
  intro p s t
  have answers : ∀ {i r : Instr}, AnswersWith i r s → exec i s = .next t →
      ∃ r, r.isRequest = false ∧ r.opcode = i.opcode ∧ t = { s with micro := .build r } := fun h he =>
    ⟨_, h.response, h.opcode.symm, next_unique he h.exec_eq⟩
  have snapshots : ∀ kind, exec (snapRequest kind p) s = .next t →
      ∃ kind v, t = { s with micro := .snapshot kind [v], intMask := false } := fun kind he =>
    ⟨kind, _, next_unique he (exec_snapRequest p s kind)⟩
  refine ⟨?_, ?_, setThreshold_frame, setTriggerMode_frame, setAlpha_frame, fun he => ?_, fun he => ?_, fun he => ?_⟩
  · simp only [List.forall_mem_cons, List.not_mem_nil, false_imp_iff, implies_true, and_true]
    exact ⟨answers (getIdAndVersion_answers p s), answers (getThreshold_answers p s),
      answers (getTriggerMode_answers p s), answers (getAlpha_answers p s)⟩
  · simp only [List.forall_mem_cons, List.not_mem_nil, false_imp_iff, implies_true, and_true]
    exact ⟨snapshots .values, snapshots .averages⟩
  · obtain rfl := next_unique (exec_reset p s) he
    have hchan := chan_restartCalibration { s with settings := defaultSettings s.params }
    exact ⟨rfl, fun c => eq_with_own_centerline (hchan c)⟩
  · obtain rfl := next_unique (exec_recalibrate p s) he
    exact ⟨rfl, fun c => eq_with_own_centerline (chan_restartCalibration s c)⟩
  · obtain ⟨u, hu, hframe, -⟩ := storeSettingsPersists s p
    obtain rfl := next_unique hu he
    exact hframe

end Sys2Proof.Machine

/-! PROOF. Truncation to an integer (R181, R187): the bounds it is clamped at, read on the bit patterns, and the percentage
that `SetAlpha` stores read back. -/
namespace Sys2Proof.Machine

/-! ## The order and the integer part of patterns -/

section
variable {a b r : F32}

/-- A pattern without a sign is its magnitude. -/
theorem f32Mag_of_lt (h : a.toNat < 2 ^ 31) : f32Mag a = a.toNat := Nat.mod_eq_of_lt h

/-- `fge` of two patterns that are no NaN and have no sign compares the patterns. -/
theorem fge_of_nonneg (ha : a.toNat < 2 ^ 31) (hb : b.toNat < 2 ^ 31) (hna : f32IsNaN a = false)
    (hnb : f32IsNaN b = false) : fge a b = decide (b.toNat ≤ a.toNat) := by
  simp only [fge, hna, hnb, f32Rank, f32Neg_eq, Nat.not_le.2 ha, Nat.not_le.2 hb, f32Mag_of_lt ha, f32Mag_of_lt hb,
    decide_false, Bool.false_eq_true, if_false, Bool.not_false, Bool.true_and, Nat.cast_le]

/-- A pattern with a sign that is no NaN is at most zero. -/
theorem fge_zero_of_neg (h : 2 ^ 31 ≤ a.toNat) (hn : f32IsNaN a = false) : fge f32Zero a = true := by
  have hzero : f32Rank f32Zero = 0 := rfl
  have hneg : f32Rank a = -(f32Mag a : Int) := by simp only [f32Rank, f32Neg_eq, h, decide_true, if_true]
  simp only [fge, hn, hzero, hneg, show f32IsNaN f32Zero = false from rfl, Bool.not_false, Bool.true_and,
    decide_eq_true_eq]
  omega

/-- The integer part is in the order of the patterns. -/
theorem f32IntPart_le (hb : b.toNat ≤ f32InfMag) (h : a.toNat ≤ b.toNat) : f32IntPart a ≤ f32IntPart b := by
  have hlt : b.toNat < 2 ^ 31 := lt_of_le_of_lt hb (by decide)
  refine Nat.div_le_div_right (magUnits_mono ?_ ?_)
  · rwa [f32Mag_of_lt hlt]
  · rwa [f32Mag_of_lt hlt, f32Mag_of_lt (h.trans_lt hlt)]

/-- From 1.0 on the integer part is the significand shifted by the exponent. -/
theorem f32IntPart_of_one_le (hone : 0x3F800000 ≤ a.toNat) (h : a.toNat < 2 ^ 31) :
    f32IntPart a = (2 ^ 23 + a.toNat % 2 ^ 23) * 2 ^ (a.toNat / 2 ^ 23 - 127) / 2 ^ 23 := by
  have hexp : 127 ≤ a.toNat / 2 ^ 23 := (Nat.le_div_iff_mul_le (Nat.two_pow_pos 23)).2 hone
  have hshift : 2 ^ (a.toNat / 2 ^ 23 - 1) = 2 ^ (a.toNat / 2 ^ 23 - 127) * 2 ^ 126 := by
    rw [← Nat.pow_add]
    congr 1
    omega
  have hunit : f32One = 2 ^ 23 * 2 ^ 126 := by rw [f32One, ← Nat.pow_add]
  rw [f32IntPart, f32Units_eq, f32Mag_of_lt h, magUnits, if_neg (by omega), hshift, hunit, ← Nat.mul_assoc,
    Nat.mul_div_mul_right _ _ (Nat.two_pow_pos 126)]

/-! ## Truncation between two bounds -/

/-- What `f2u16` and `alphaToPercent` do with a value that is no NaN: 0 when it is not positive, `top` from `limit` on, else
the integer part. -/
def truncate (w : Nat) (limit : F32) (top : BitVec w) (r : F32) : BitVec w :=
  if fge f32Zero r then 0 else if fge r limit then top else BitVec.ofNat w (f32IntPart r)

theorem f2u16_of_nan (h : f32IsNaN a = true) : f2u16 a = 0 := by rw [f2u16, if_pos h]

theorem f2u16_of_not_nan (h : f32IsNaN a = false) : f2u16 a = truncate 16 f32MaxHalf 65535 a := by
  rw [f2u16, if_neg (by simp [h]), truncate]

theorem alphaToPercent_of_nan (h : f32IsNaN a = true) : alphaToPercent a = 0 := by rw [alphaToPercent, if_pos h]

theorem alphaToPercent_of_not_nan (h : f32IsNaN a = false) :
    alphaToPercent a = truncate 8 f32HundredOne 100 (fadd (fmul a f32Hundred) f32Half) := by
  rw [alphaToPercent, if_neg (by simp [h]), truncate]

/-- A value of the format without a sign that is at most infinity is no NaN. -/
theorem not_nan_of_le (h : a.toNat ≤ f32InfMag) : f32IsNaN a = false := by
  refine decide_eq_false (Nat.not_lt.2 ?_)
  rwa [f32Mag_of_lt (lt_of_le_of_lt h (by decide))]

section
variable {w : Nat} {limit : F32} {top : BitVec w}

/-- Below 1.0, and with a sign, a value is truncated to 0. -/
theorem truncate_eq_zero (hn : f32IsNaN r = false) (hone : 0x3F800000 ≤ limit.toNat) (hlimit : limit.toNat ≤ f32InfMag)
    (h : r.toNat < 0x3F800000 ∨ 2 ^ 31 ≤ r.toNat) : truncate w limit top r = 0 := by
  obtain hsmall | hneg := h
  · have hpart : f32IntPart r = 0 := by
      have hle : f32IntPart r ≤ f32IntPart 0x3F7FFFFF := f32IntPart_le (by decide) (Nat.le_of_lt_succ hsmall)
      have hzero : f32IntPart 0x3F7FFFFF = 0 := by decide
      omega
    have hbelow : fge r limit = false := by
      rw [fge_of_nonneg (by omega) (lt_of_le_of_lt hlimit (by decide)) hn (not_nan_of_le hlimit)]
      exact decide_eq_false (by omega)
    rw [truncate, hbelow, hpart]
    split
    next => rfl
    next => rfl
  · rw [truncate, fge_zero_of_neg hneg hn, if_pos rfl]

/-- From 1.0 on a value is positive. -/
theorem fge_zero_of_one_le (hn : f32IsNaN r = false) (hone : 0x3F800000 ≤ r.toNat) (h : r.toNat < 2 ^ 31) :
    fge f32Zero r = false := by
  rw [fge_of_nonneg (by decide) h rfl hn]
  exact decide_eq_false (Nat.not_le.2 (lt_of_lt_of_le (by decide) hone))

/-- From the limit on a value is truncated to the bound. -/
theorem truncate_eq_top (hn : f32IsNaN r = false) (hone : 0x3F800000 ≤ limit.toNat) (hlimit : limit.toNat ≤ f32InfMag)
    (h : limit.toNat ≤ r.toNat) (hpos : r.toNat < 2 ^ 31) : truncate w limit top r = top := by
  have hreached : fge r limit = true := by
    rw [fge_of_nonneg hpos (lt_of_le_of_lt hlimit (by decide)) hn (not_nan_of_le hlimit)]
    exact decide_eq_true h
  rw [truncate, fge_zero_of_one_le hn (hone.trans h) hpos, hreached, if_neg Bool.false_ne_true, if_pos rfl]

/-- Between the bounds a value is truncated to its integer part, if the limit's fits the width. -/
theorem toNat_truncate (hlimit : limit.toNat ≤ f32InfMag) (hfits : f32IntPart limit < 2 ^ w)
    (hone : 0x3F800000 ≤ r.toNat) (h : r.toNat < limit.toNat) :
    (truncate w limit top r).toNat = (2 ^ 23 + r.toNat % 2 ^ 23) * 2 ^ (r.toNat / 2 ^ 23 - 127) / 2 ^ 23 := by
  have hbound : limit.toNat < 2 ^ 31 := lt_of_le_of_lt hlimit (by decide)
  have hn : f32IsNaN r = false := not_nan_of_le (h.le.trans hlimit)
  have hbelow : fge r limit = false := by
    rw [fge_of_nonneg (h.trans hbound) hbound hn (not_nan_of_le hlimit)]
    exact decide_eq_false (Nat.not_le.2 h)
  rw [truncate, fge_zero_of_one_le hn hone (h.trans hbound), hbelow, if_neg Bool.false_ne_true,
    if_neg Bool.false_ne_true, BitVec.toNat_ofNat, Nat.mod_eq_of_lt ((f32IntPart_le hlimit h.le).trans_lt hfits),
    f32IntPart_of_one_le hone (h.trans hbound)]

/-- The three cases of a truncation, on the bits of the value. -/
theorem truncate_clauses (hn : f32IsNaN r = false) (hone : 0x3F800000 ≤ limit.toNat) (hlimit : limit.toNat ≤ f32InfMag)
    (hfits : f32IntPart limit < 2 ^ w) :
    ((r.toNat < 0x3F800000 ∨ 2 ^ 31 ≤ r.toNat) → truncate w limit top r = 0) ∧
    (limit.toNat ≤ r.toNat → r.toNat < 2 ^ 31 → truncate w limit top r = top) ∧
    (0x3F800000 ≤ r.toNat → r.toNat < limit.toNat →
      (truncate w limit top r).toNat = (2 ^ 23 + r.toNat % 2 ^ 23) * 2 ^ (r.toNat / 2 ^ 23 - 127) / 2 ^ 23) :=
  ⟨truncate_eq_zero hn hone hlimit, truncate_eq_top hn hone hlimit, toNat_truncate hlimit hfits⟩

end

/-! ## The sum of R187 -/

/-- A product with a finite factor that is not zero is no NaN, unless the other factor is. -/
theorem f32Mag_fmul_le_inf (ha : f32Mag a ≤ f32InfMag) (hb : f32Mag b < f32InfMag) (hpos : 0 < f32Mag b) :
    f32Mag (fmul a b) ≤ f32InfMag := by
  obtain hfinite | hinf := ha.lt_or_eq
  · rw [fmul_of_finite hfinite hb, f32Mag_round]
    exact roundMag_le_inf _ _
  · obtain ⟨hnb, -⟩ := finite_of_mag_lt hb
    have hna : f32IsNaN a = false := decide_eq_false hinf.not_gt
    have hia : f32IsInf a = true := decide_eq_true hinf
    have hza : f32IsZero a = false := decide_eq_false (hinf.trans_ne (by decide))
    have hzb : f32IsZero b = false := decide_eq_false hpos.ne'
    simp only [fmul, hna, hnb, hia, hza, hzb, Bool.or_self, Bool.true_or, Bool.false_eq_true, if_false, if_true]
    rw [f32Mag_pack _ le_rfl]

/-- A sum with a finite value is no NaN, unless the other value is. -/
theorem f32Mag_fadd_le_inf (ha : f32Mag a ≤ f32InfMag) (hb : f32Mag b < f32InfMag) : f32Mag (fadd a b) ≤ f32InfMag := by
  obtain hfinite | hinf := ha.lt_or_eq
  · rw [f32Mag_fadd hfinite hb]
    exact roundMag_le_inf _ _
  · obtain ⟨hnb, hib⟩ := finite_of_mag_lt hb
    have hna : f32IsNaN a = false := decide_eq_false hinf.not_gt
    have hia : f32IsInf a = true := decide_eq_true hinf
    simp only [fadd, hna, hnb, hia, hib, Bool.or_self, Bool.false_and, Bool.false_eq_true, if_false, if_true]
    exact ha

/-- The sum of R187 is no NaN unless the coefficient is. -/
theorem percentSum_not_nan (ha : f32Mag a ≤ f32InfMag) : f32IsNaN (fadd (fmul a f32Hundred) f32Half) = false :=
  decide_eq_false (Nat.not_lt.2 (f32Mag_fadd_le_inf (f32Mag_fmul_le_inf ha (by decide) (by decide)) (by decide)))

end

/-! ## Percentages -/

/-- The coefficient of a percentage has no sign and is at most 1.0 (R188). -/
theorem percentToAlpha_le_unit {q : Nat} (hq : q ≤ 100) : (percentToAlpha q).toNat ≤ 0x3F800000 := by
  have hsign : f32Neg (percentToAlpha q) = false :=
    (finiteNonneg_fdiv (finiteNonneg_u2f (by omega)) ⟨rfl, by decide⟩ (by decide)).1
  obtain hle | hzero := alphaInRange_percentToAlpha hq
  · exact hle
  · rw [f32Neg_eq, hzero] at hsign
    exact absurd hsign (by decide)

/-- 100 percent is 1.0 (R188). -/
theorem percentToAlpha_hundred : percentToAlpha 100 = f32Unit := by decide

/-- Every percentage is read back (R187, R188): the sum of R187 is computed for each of the 101 values of `pct` (R67). -/
theorem alphaToPercent_percentToAlpha {q : Nat} (hq : q ≤ 100) :
    alphaToPercent (percentToAlpha q) = BitVec.ofNat 8 q := by
  have hall : ∀ k : Fin 101, alphaToPercent (percentToAlpha k) = BitVec.ofNat 8 k := by decide +kernel
  exact hall ⟨q, Nat.lt_succ_of_le hq⟩

end Sys2Proof.Machine

/-! PROOF. The commands that answer at once, with the frame builder's step (O50), and what a set command wrote, read back by
its counterpart (O51 to O53). -/
namespace Sys2Proof.Machine

section
variable {i r : Instr} {s : State}

/-- After the handler the frame builder runs the response row (R103). -/
theorem AnswersWith.thenNext_build (h : AnswersWith i r s) (hruns : MainRuns s) :
    thenNext (exec i s) (runAgent .main) = exec r { s with micro := .remove } := by
  rw [h.exec_eq, thenNext_next]
  exact runAgent_main_build (s := { s with micro := .build r }) ⟨hruns.rst, hruns.boot, hruns.idle⟩ rfl

/-- With room exactly the response's frame is appended (O49). -/
theorem AnswersWith.commits (h : AnswersWith i r s) (hruns : MainRuns s) (htx : RingOk s.params.txCap s.tx)
    (hcap : s.params.txCap ≤ 256) (hfit : (encode r).length ≤ s.tx.free s.params.txCap) :
    ∃ t, thenNext (exec i s) (runAgent .main) = .next t ∧ t.txHeld = s.txHeld ++ encode r ∧
      t = { s with tx := t.tx, micro := .remove } ∧ t.tx.tail = s.tx.tail ∧
      ∀ a, (∀ k, k < (encode r).length → (s.tx.head.toNat + k) % s.params.txCap ≠ a) →
        Memory.read t.tx.storage a = Memory.read s.tx.storage a := by
  obtain ⟨t, hexec, hheld, hframe, htail, -, hother⟩ :=
    (responseRowsCommitWholeOrNothing.1 r { s with micro := .remove } h.response htx hcap).1 hfit
  exact ⟨t, (h.thenNext_build hruns).trans hexec, hheld, hframe, htail, hother⟩

/-- Without room the response is lost and `txOverflow` set (R104). -/
theorem AnswersWith.overflows (h : AnswersWith i r s) (hruns : MainRuns s)
    (hfull : s.tx.free s.params.txCap < (encode r).length) :
    thenNext (exec i s) (runAgent .main) = .next { s with txOverflow := true, micro := .remove } :=
  (h.thenNext_build hruns).trans (exec_response_of_full h.response hfull)

end

/-- Settles O50: each of the four answers with its row, and the percentage is a truncation between two bounds. -/
theorem readCommandsAnswer : Obligations.ReadCommandsAnswer := by
  refine ⟨fun p s ia hia => ?_, fun a => ⟨fun hnan => alphaToPercent_of_nan (decide_eq_true hnan), fun hle => ?_⟩⟩
  · have h : AnswersWith ia.1 ia.2 s := by
      simp only [List.mem_cons, List.not_mem_nil, or_false] at hia
      obtain rfl | rfl | rfl | rfl := hia
      · exact getIdAndVersion_answers p s
      · exact getThreshold_answers p s
      · exact getTriggerMode_answers p s
      · exact getAlpha_answers p s
    exact ⟨h.opcode, h.exec_eq, fun hruns htx hcap => ⟨h.commits hruns htx hcap, h.overflows hruns⟩⟩
  · rw [alphaToPercent_of_not_nan (decide_eq_false (Nat.not_lt.2 hle))]
    exact truncate_clauses (limit := f32HundredOne) (percentSum_not_nan hle) (by decide) (by decide) (by decide)

/-! ## A setting written and read back -/

/-- A response of one byte is appended when eight bytes are free. -/
theorem AnswersWith.appended {i r : Instr} {s : State} (h : AnswersWith i r s) (hlen : (encode r).length = 8)
    (hruns : MainRuns s) (htx : RingOk s.params.txCap s.tx) (hcap : s.params.txCap ≤ 256)
    (hroom : 8 ≤ s.tx.free s.params.txCap) :
    ∃ u, thenNext (exec i s) (runAgent .main) = .next u ∧ u.txHeld = s.txHeld ++ encode r := by
  obtain ⟨u, hnext, hheld, -⟩ := h.commits hruns htx hcap (hlen.trans_le hroom)
  exact ⟨u, hnext, hheld⟩

/-- A byte zero-extended keeps its value. -/
theorem toNat_zext32 (b : Byte) : (zext32 b).toNat = b.toNat := BitVec.toNat_setWidth_of_le (by decide)

/-- `MainRuns` reads no setting and no mask. -/
theorem MainRuns.withSettings {s : State} (h : MainRuns s) (x : Settings) (m : Bool) :
    MainRuns { s with settings := x, intMask := m } := ⟨h.rst, h.boot, h.idle⟩

/-- Settles O51: the low byte of the zero-extended byte is the byte. -/
theorem setThresholdThenGetReturnsIt : Obligations.SetThresholdThenGetReturnsIt := by
  refine ⟨exec_setThreshold_nil, fun s b extra p =>
    ⟨_, exec_setThreshold_cons s b extra, toNat_zext32 b, rfl, fun hruns => ?_⟩⟩
  have h := getThreshold_answers p
    { s with settings := { s.settings with thresholdFactor := zext32 b }, intMask := false }
  dsimp only at h
  rw [toNat_zext32, BitVec.ofNat_toNat, BitVec.setWidth_eq] at h
  exact h.appended rfl (hruns.withSettings _ _)

/-- Settles O52: by whether the byte is a mode. -/
theorem setTriggerModeThenGetReturnsIt : Obligations.SetTriggerModeThenGetReturnsIt := by
  refine ⟨exec_setTriggerMode_nil, fun s m extra p =>
    ⟨fun hm => exec_setTriggerMode_of_lt s hm extra,
      fun hm => ⟨_, exec_setTriggerMode_of_le s hm extra, rfl, fun hruns => ?_⟩⟩⟩
  exact (getTriggerMode_answers p { s with settings := { s.settings with trigMode := m } }).appended rfl
    (hruns.withSettings _ _)

/-- Settles O53: the clamped byte is a percentage, and the coefficient it stands for reads back as it. -/
theorem setAlphaThenGetReturnsIt : Obligations.SetAlphaThenGetReturnsIt := by
  refine ⟨exec_setAlpha_nil, fun s b extra p => ?_⟩
  have hq : min b.toNat 100 ≤ 100 := Nat.min_le_right _ _
  refine ⟨_, exec_setAlpha_cons s b extra, rfl, percentToAlpha_le_unit hq, fun hb => ?_, rfl, fun hruns => ?_⟩
  · exact (congrArg percentToAlpha (Nat.min_eq_right hb)).trans percentToAlpha_hundred
  · have h := getAlpha_answers p
      { s with settings := { s.settings with filterAlpha := percentToAlpha (min b.toNat 100) }, intMask := false }
    dsimp only at h
    rw [alphaToPercent_percentToAlpha hq] at h
    exact h.appended rfl (hruns.withSettings _ _)

end Sys2Proof.Machine

/-! PROOF. Opcodes 0x04 and 0x05 from the Scan phase to the removal of the request (O59, O60): scanner, dispatcher, three more
critical sections, frame builder, removal. -/
namespace Sys2Proof.Machine

/-! ## Several steps of `Main` -/

section
variable {s t : State}

/-- `Main`'s first steps, then the others. -/
theorem mainSteps_add_of_next {m : Nat} (n : Nat) (h : mainSteps m s = .next t) : mainSteps (m + n) s = mainSteps n t := by
  induction m generalizing s with
  | zero =>
    obtain rfl := Host.Outcome.next.inj h
    rw [Nat.zero_add]
  | succ m ih =>
    obtain ⟨u, hu, hrest⟩ := thenNext_eq_next h
    rw [Nat.succ_add, mainSteps_succ_of_next hu, ih hrest]

/-- Steps of `Main` keep the invariant. -/
theorem Invariant.mainSteps {n : Nat} (h : Invariant s) (hs : mainSteps n s = .next t) : Invariant t := by
  induction n generalizing s with
  | zero =>
    obtain rfl := Host.Outcome.next.inj hs
    exact h
  | succ n ih =>
    obtain ⟨u, hu, hrest⟩ := thenNext_eq_next hs
    exact ih (h.runAgent hu) hrest

end

/-! ## From the dispatcher to the response -/

/-- The opcode of a snapshot's request and response (R180, R181). -/
def snapOpcode : SnapKind → Byte
  | .values => 0x04
  | .averages => 0x05

/-- The response of a snapshot of which every critical section reads this state. -/
def snapAnswer (kind : SnapKind) (s : State) : Instr :=
  snapResponse kind (snapChannel kind 0 s).1 (snapChannel kind 1 s).1 (snapChannel kind 2 s).1 (snapChannel kind 3 s).1

/-- The opcode selects the request (R69). -/
theorem requestOf_snapOpcode (kind : SnapKind) (payload : List Byte) :
    requestOf (snapOpcode kind) payload = .ok (snapRequest kind payload) := by
  cases kind <;> rfl

section
variable {s : State} {kind : SnapKind}

/-- The dispatcher takes the first critical section (R49, R170). -/
theorem runAgent_main_begins_snapshot (hruns : MainRuns s) (hmicro : s.micro = .dispatch) (hheld : FrameHeld s)
    (hbyte : s.rxHeld[4]? = some (snapOpcode kind)) :
    runAgent .main s = .next { s with intMask := false, micro := .snapshot kind [(snapChannel kind 0 s).1] } := by
  have hopcode : frameOpcode s = snapOpcode kind := by simp [frameOpcode, List.getD_eq_getElem?_getD, hbyte]
  rw [runAgent_main_dispatch hruns hmicro]
  simp only [dispatchFrame, hheld.buffered, if_true, hopcode, requestOf_snapOpcode]
  exact exec_snapRequest _ { s with micro := .remove } kind

/-- The second and the third critical section take channels 1 and 2 (R49). -/
theorem mainSteps_two_of_first {v : Half} (hruns : MainRuns s) (hmicro : s.micro = .snapshot kind [v]) :
    mainSteps 2 s = .next { s with
      intMask := false
      micro := .snapshot kind [v, (snapChannel kind 1 s).1, (snapChannel kind 2 s).1] } := by
  have hsecond := (runAgent_main_snapshot hruns hmicro).trans (snapshotStep_of_lt (by decide : 1 < 3))
  rw [mainSteps_succ_of_next hsecond]
  refine mainSteps_one_of_next ((runAgent_main_snapshot (hruns.afterCritical _) rfl).trans ?_)
  exact snapshotStep_of_lt (by decide : 2 < 3)

/-- From the dispatcher on, five steps of `Main` take the four values and commit their response, or lose it (R49, R104). -/
theorem mainSteps_five_of_dispatch (hruns : MainRuns s) (hmicro : s.micro = .dispatch) (hheld : FrameHeld s)
    (hbyte : s.rxHeld[4]? = some (snapOpcode kind)) (htx : RingOk s.params.txCap s.tx) (hcap : s.params.txCap ≤ 256) :
    ∃ t, mainSteps 5 s = .next t ∧
      t = { s with intMask := false, tx := t.tx, txOverflow := t.txOverflow, micro := .remove } ∧
      (15 ≤ s.tx.free s.params.txCap →
        t.txOverflow = s.txOverflow ∧ t.txHeld = s.txHeld ++ encode (snapAnswer kind s)) ∧
      (s.tx.free s.params.txCap < 15 → t.txOverflow = true ∧ t.tx = s.tx) := by
  have hthree : mainSteps 3 s = .next { s with
      intMask := false
      micro := .snapshot kind [(snapChannel kind 0 s).1, (snapChannel kind 1 s).1, (snapChannel kind 2 s).1] } :=
    (mainSteps_succ_of_next (runAgent_main_begins_snapshot hruns hmicro hheld hbyte)).trans
      (mainSteps_two_of_first (hruns.afterCritical _) rfl)
  have hfive := mainSteps_add_of_next 2 hthree
  obtain hfull | hfit := Nat.lt_or_ge (s.tx.free s.params.txCap) 15
  · exact ⟨_, hfive.trans (mainSteps_two_overflows (hruns.afterCritical _) rfl hfull), rfl,
      fun hroom => absurd hroom (Nat.not_le.2 hfull), fun _ => ⟨rfl, rfl⟩⟩
  · obtain ⟨t, hsteps, hanswer, -, hframe⟩ := mainSteps_two_commits (hruns.afterCritical _) rfl htx hcap hfit
    obtain ⟨q, rfl⟩ : ∃ q, t = { s with intMask := false, tx := q, micro := .remove } := ⟨_, hframe⟩
    exact ⟨_, hfive.trans hsteps, rfl, fun _ => ⟨rfl, hanswer⟩, fun hfull => absurd hfit (Nat.not_le.2 hfull)⟩

/-! ## From the Scan phase to the removal -/

/-- With the request behind the noise, seven steps of `Main` answer it and remove it (R100, R180, R181). -/
theorem mainSteps_seven_of_snapRequest {p : List Byte} (h : Invariant s) (hready : MainReady s) (hphase : s.phase = .scan)
    (hparse : parseFrame (s.params.rxCap - 1) (s.rxHeld.drop (noiseLen s.rxHeld)) = .ok (snapOpcode kind, p)) :
    ∃ t, mainSteps 7 s = .next t ∧ t.rxHeld = s.rxHeld.drop (noiseLen s.rxHeld + (p.length + 7)) ∧
      t = { s with rx := t.rx, tx := t.tx, txOverflow := t.txOverflow, phase := .trigger } ∧
      (15 ≤ s.tx.free s.params.txCap →
        t.txOverflow = s.txOverflow ∧ t.txHeld = s.txHeld ++ encode (snapAnswer kind s)) ∧
      (s.tx.free s.params.txCap < 15 → t.txOverflow = true ∧ t.tx = s.tx) := by
  obtain ⟨u, hscan, hfound, -, -, hu⟩ := scan_hands_frame_to_dispatcher h hready hphase hparse
  obtain ⟨q, rfl⟩ : ∃ q, u = { s with rx := q, micro := .dispatch, scanLen := p.length + 7 } := ⟨_, hu⟩
  have hdispatch := h.runAgent hscan
  have hbyte := (parseFrame_eq_ok hparse).1
  rw [← hfound] at hbyte
  obtain ⟨w, hfive, hw, hroom, hfull⟩ :=
    mainSteps_five_of_dispatch (s := { s with rx := q, micro := .dispatch, scanLen := p.length + 7 })
      ⟨hready.rst, hready.boot, hready.idle⟩ rfl (hdispatch.held (by simp)) hbyte h.tx
      (paramBounds_of_ok h.params).txUpper
  obtain ⟨tx, overflow, rfl⟩ : ∃ tx overflow, w = { s with
      rx := q, scanLen := p.length + 7, intMask := false, tx := tx, txOverflow := overflow, micro := .remove } :=
    ⟨_, _, hw⟩
  obtain ⟨t, hremove, hrest, -, -, ht⟩ :=
    (settleDelayThenRemoval _ (hdispatch.mainSteps hfive) hready.rst hready.boot rfl).2 hready.idle
  obtain ⟨rx, rfl⟩ : ∃ rx, t = { s with
      rx := rx, tx := tx, txOverflow := overflow, intMask := false, phase := .trigger, micro := .phaseStep,
      scanLen := 0 } :=
    ⟨_, ht⟩
  have hsix := (mainSteps_add_of_next 1 hfive).trans (mainSteps_one_of_next hremove)
  refine ⟨_, (mainSteps_succ_of_next hscan).trans hsix, ?_, ?_, hroom, hfull⟩
  · exact hrest.trans ((congrArg (List.drop _) hfound).trans List.drop_drop)
  · simp only [h.unmasked hready.boot, hready.between, h.resting hready.between]

end

/-- Settles O59: the snapshot of the raw samples. -/
theorem readCurrentValuesAnswers : Obligations.ReadCurrentValuesAnswers :=
  ⟨fun s p => exec_snapRequest p s .values, fun _ _ h hready hphase hparse =>
    mainSteps_seven_of_snapRequest (kind := .values) h hready hphase hparse⟩

/-- Settles O60: the snapshot of the truncated averages, and the truncation. -/
theorem readCurrentAveragesAnswers : Obligations.ReadCurrentAveragesAnswers := by
  refine ⟨fun s p => exec_snapRequest p s .averages, fun _ _ h hready hphase hparse =>
    mainSteps_seven_of_snapRequest (kind := .averages) h hready hphase hparse, fun a =>
    ⟨fun hnan => f2u16_of_nan (decide_eq_true hnan), fun hle => ?_⟩⟩
  have hn : f32IsNaN a = false := decide_eq_false (Nat.not_lt.2 hle)
  rw [f2u16_of_not_nan hn]
  exact truncate_clauses (limit := f32MaxHalf) hn (by decide) (by decide) (by decide)

end Sys2Proof.Machine

/-! PROOF. Two handlers back to back (R212, O23). Each handler has registers of its own: it writes no others, and reads no
others but four that no handler writes. The registers of two handlers are disjoint, so the handlers commute. -/
namespace Sys2Proof.Machine

/-! ## The registers of a handler -/

/-- `s` with the registers that handler `a` may write as they are in `t`. The other two agents are no handlers. -/
def withRegistersOf (a : Agent) (s t : State) : State :=
  match a with
  | .tick => { s with pendTick := t.pendTick, clock := t.clock }
  | .conv => { s with
      pendConv := t.pendConv
      ch := t.ch
      chanIdx := t.chanIdx
      muxSel := t.muxSel
      calCycle := t.calCycle
      calRemaining := t.calRemaining
      triggered := t.triggered }
  | .bus => { s with
      pendBus := t.pendBus
      rx := t.rx
      tx := t.tx
      busRead := t.busRead
      busErr := t.busErr
      draws := t.draws }
  | .main => s
  | .settle => s

/-- `s` with the registers that handlers read and none writes as they are in `t`. -/
def withShared (s t : State) : State :=
  { s with params := t.params, settings := t.settings, rst := t.rst, intMask := t.intMask }

/-- The registers of two different handlers are disjoint. -/
theorem withRegistersOf_comm {a b : Agent} (hab : a ≠ b) (s t u : State) :
    withRegistersOf a (withRegistersOf b s t) u = withRegistersOf b (withRegistersOf a s u) t := by
  cases a with
  | tick => cases b with
    | tick => exact absurd rfl hab
    | _ => rfl
  | conv => cases b with
    | conv => exact absurd rfl hab
    | _ => rfl
  | bus => cases b with
    | bus => exact absurd rfl hab
    | _ => rfl
  | _ => rfl

theorem withRegistersOf_self (a : Agent) (s : State) : withRegistersOf a s s = s := by cases a <;> rfl

/-- No handler writes what all of them read. -/
theorem withShared_withRegistersOf (a : Agent) (s t : State) :
    withShared (withRegistersOf a s t) s = withRegistersOf a s t := by cases a <;> rfl

/-- What a handler reads is left alone by another handler. -/
theorem withRegistersOf_other {a b : Agent} (hab : a ≠ b) (s t : State) :
    withRegistersOf a (withShared (withRegistersOf b s t) s) s = withRegistersOf b s t := by
  rw [withShared_withRegistersOf, withRegistersOf_comm hab, withRegistersOf_self]

/-! ## A handler writes its own registers -/

/-- R110. -/
theorem serveConv_eq_withRegistersOf (s : State) : serveConv s = withRegistersOf .conv s (serveConv s) := by
  unfold serveConv
  cases s.pendConv with
  | none => rfl
  | some raw =>
    have hframe := (convComplete_frame raw { s with pendConv := none }).1
    have hpend : (convComplete raw { s with pendConv := none }).pendConv = none := (congrArg State.pendConv hframe :)
    simp only [returnFromInterrupt, takeInterrupt, withRegistersOf, hpend]
    exact hframe

/-- R90 to R92. -/
theorem busStep_eq_withRegistersOf (e : BusEvent) (s : State) : busStep e s = withRegistersOf .bus s (busStep e s) := by
  cases e with
  | rx b => obtain h | ⟨q, -, h⟩ := busReceive_cases b s <;> rw [busStep, h] <;> rfl
  | txreq => obtain h | ⟨b, q, -, h⟩ := busTransmit_cases s <;> rw [busStep, h] <;> rfl
  | buserr => rfl

/-- R205, U5: stuck or not. -/
theorem tryBus_eq_withRegistersOf (s : State) : tryBus s = withRegistersOf .bus s (tryBus s) := by
  obtain ⟨n, h | ⟨e, -, h⟩⟩ := tryBus_cases s
  · rw [h]
    rfl
  · rw [h]
    exact busStep_eq_withRegistersOf e { s with pendBus := none, draws := n }

/-! ## A handler reads its own registers and the shared ones -/

section
variable {s : State}

/-- After a bus-level error the free value lets `Bus` act (U5, log 9). -/
theorem tryBus_of_acts (herr : s.busErr = true) (hacts : Config.freeBool s.draws = true) :
    tryBus s = serveBus { s with draws := s.draws + 1 } := by
  rw [tryBus, if_pos herr, if_pos hacts]

/-- Or it keeps it stuck (U5, log 9). -/
theorem tryBus_of_stuck (herr : s.busErr = true) (hacts : ¬ Config.freeBool s.draws = true) :
    tryBus s = { s with draws := s.draws + 1 } := by
  rw [tryBus, if_pos herr, if_neg hacts]

/-- Before any, `Bus` acts. -/
theorem tryBus_of_sound (herr : ¬ s.busErr = true) : tryBus s = serveBus s := by
  rw [tryBus, if_neg herr]

end

section
variable (s u : State)

/-- In either mode a conversion is the same in a state with other registers elsewhere (R110). -/
theorem convComplete_withRegistersOf (raw : Half) :
    convComplete raw (withRegistersOf .conv (withShared u s) s) =
      withRegistersOf .conv (withShared u s) (convComplete raw s) := by
  by_cases h : s.calRemaining = 0
  · rw [convComplete_of_armed raw h, convComplete_of_armed raw (by exact h)]
    rfl
  · rw [convComplete_of_calibrating raw h, convComplete_of_calibrating raw (by exact h), calibratingSample_eq,
      calibratingSample_eq, apply_ite (withRegistersOf .conv (withShared u s))]
    rfl

/-- With or without a pending conversion. -/
theorem serveConv_withRegistersOf :
    serveConv (withRegistersOf .conv (withShared u s) s) = withRegistersOf .conv (withShared u s) (serveConv s) := by
  cases hpend : s.pendConv with
  | none => simp only [serveConv, withRegistersOf, hpend]
  | some raw =>
    simp only [serveConv, withRegistersOf, hpend]
    exact convComplete_withRegistersOf { s with pendConv := none } u raw

/-- R90 to R92: the rings and their capacities are all that decides. -/
theorem busStep_withRegistersOf (e : BusEvent) :
    busStep e (withRegistersOf .bus (withShared u s) s) = withRegistersOf .bus (withShared u s) (busStep e s) := by
  cases e with
  | rx x => cases hring : s.rx.enqueue s.params.rxCap x with
    | none => simp only [busStep, withRegistersOf, withShared, busReceive, hring]
    | some q => simp only [busStep, withRegistersOf, withShared, busReceive, hring]
  | txreq => cases hring : s.tx.dequeue s.params.txCap with
    | none => simp only [busStep, withRegistersOf, withShared, busTransmit, hring]
    | some r => simp only [busStep, withRegistersOf, withShared, busTransmit, hring]
  | buserr => rfl

/-- With or without a pending event. -/
theorem serveBus_withRegistersOf :
    serveBus (withRegistersOf .bus (withShared u s) s) = withRegistersOf .bus (withShared u s) (serveBus s) := by
  cases hpend : s.pendBus with
  | none => simp only [serveBus, withRegistersOf, hpend]
  | some e =>
    simp only [serveBus, withRegistersOf, hpend]
    exact busStep_withRegistersOf { s with pendBus := none } u e

/-- R205, U5: the free value drawn is the same. -/
theorem tryBus_withRegistersOf :
    tryBus (withRegistersOf .bus (withShared u s) s) = withRegistersOf .bus (withShared u s) (tryBus s) := by
  by_cases herr : s.busErr = true
  · by_cases hacts : Config.freeBool s.draws = true
    · rw [tryBus_of_acts herr hacts, tryBus_of_acts (by exact herr) (by exact hacts)]
      exact serveBus_withRegistersOf { s with draws := s.draws + 1 } u
    · rw [tryBus_of_stuck herr hacts, tryBus_of_stuck (by exact herr) (by exact hacts)]
      rfl
  · rw [tryBus_of_sound herr, tryBus_of_sound (by exact herr)]
    exact serveBus_withRegistersOf s u

/-- Letting a handler step answers a state that differs in the handler's registers only, and the same registers in a state
that differs elsewhere. -/
theorem runAgent_handler {a : Agent} (hmain : a ≠ .main) (hsettle : a ≠ .settle) (s : State) :
    ∃ t, runAgent a s = .next t ∧ t = withRegistersOf a s t ∧
      ∀ u, runAgent a (withRegistersOf a (withShared u s) s) = .next (withRegistersOf a (withShared u s) t) := by
  have henabled : ∀ u, enabled a (withRegistersOf a (withShared u s) s) = enabled a s := by
    intro u
    cases a with
    | main => exact absurd rfl hmain
    | settle => exact absurd rfl hsettle
    | _ => rfl
  cases hen : enabled a s with
  | false => exact ⟨s, runAgent_disabled hen, (withRegistersOf_self a s).symm,
      fun u => runAgent_disabled ((henabled u).trans hen)⟩
  | true =>
    simp only [runAgent_enabled hen, runAgent_enabled ((henabled _).trans hen)]
    cases a with
    | tick => exact ⟨_, rfl, rfl, fun u => rfl⟩
    | conv => exact ⟨_, rfl, serveConv_eq_withRegistersOf s, fun u => congrArg _ (serveConv_withRegistersOf s u)⟩
    | bus => exact ⟨_, rfl, tryBus_eq_withRegistersOf s, fun u => congrArg _ (tryBus_withRegistersOf s u)⟩
    | main => exact absurd rfl hmain
    | settle => exact absurd rfl hsettle

end

/-- Settles O23: the second handler finds its registers as the first one found them, and the two write disjoint ones. -/
theorem handlersCommute : Obligations.HandlersCommute := by
  intro s a b hamain hasettle hbmain hbsettle hab
  obtain ⟨t, ht, htown, htelse⟩ := runAgent_handler hamain hasettle s
  obtain ⟨u, hu, huown, huelse⟩ := runAgent_handler hbmain hbsettle s
  have hafterA : runAgent b t = .next (withRegistersOf b t u) := by
    have h := huelse (withRegistersOf a s t)
    rwa [withRegistersOf_other hab.symm, withShared_withRegistersOf, ← htown] at h
  have hafterB : runAgent a u = .next (withRegistersOf a u t) := by
    have h := htelse (withRegistersOf b s u)
    rwa [withRegistersOf_other hab, withShared_withRegistersOf, ← huown] at h
  have hsame : withRegistersOf b t u = withRegistersOf a u t := calc
    withRegistersOf b t u = withRegistersOf b (withRegistersOf a s t) u := by rw [← htown]
    _ = withRegistersOf a (withRegistersOf b s u) t := withRegistersOf_comm hab.symm s t u
    _ = withRegistersOf a u t := by rw [← huown]
  rw [ht, hu, thenNext_next, thenNext_next, hafterA, hafterB, hsame]

end Sys2Proof.Machine

/-! PROOF. The error classes (R200 to R207, O48): what each instruction raises, what each step raises, and what leaves
`txOverflow` set. -/
namespace Sys2Proof.Machine

/-! ## What an instruction raises -/

/-- A set command with an empty payload (R202). -/
def ShortPayload (i : Instr) : Prop := i = .setThreshold [] ∨ i = .setTriggerMode [] ∨ i = .setAlpha []

/-- A set command with an operand outside its range (R203). -/
def IllegalField (i : Instr) : Prop :=
  ∃ b rest, (i = .setTriggerMode (b :: rest) ∧ 3 < b.toNat) ∨ (i = .setAlpha (b :: rest) ∧ 100 < b.toNat)

/-- A response row whose frame the transmit ring has no room for (R104). -/
def LostResponse (i : Instr) (s : State) : Prop :=
  i.isRequest = false ∧ s.tx.free s.params.txCap < (encode i).length

section
variable {i : Instr} {e : ErrorClass} {s t : State}

/-- A response row raises what the frame builder raises on its payload (R206). -/
theorem handlerErrors_response (hresp : i.isRequest = false) : handlerErrors i s = buildErrors i.payload s := by
  cases i with
  | getIdAndVersionResp | getThresholdResp | readCurrentValuesResp | readCurrentAveragesResp | getTriggerModeResp
  | getAlphaResp => rfl
  | _ => cases hresp

/-- The one class it can raise, exactly when its frame does not fit (R104, R206). -/
theorem mem_handlerErrors_response (hresp : i.isRequest = false) :
    e ∈ handlerErrors i s ↔ e = .txOverflow ∧ s.tx.free s.params.txCap < (encode i).length := by
  rw [handlerErrors_response hresp, buildErrors, encode, encodeFrame_length]
  split
  next hfull => simp [hfull]
  next hroom => simp [hroom]

/-- What a request raises: only a set command raises anything, and only on its payload (R202, R203). -/
theorem mem_handlerErrors_request (hreq : i.isRequest = true) :
    e ∈ handlerErrors i s ↔ (e = .malformedPayload ∧ ShortPayload i) ∨ (e = .invalidFieldValue ∧ IllegalField i) := by
  cases i with
  | setThreshold p => cases p <;> simp [handlerErrors, ShortPayload, IllegalField]
  | setTriggerMode p =>
    cases p with
    | nil => simp [handlerErrors, operandU8, ShortPayload, IllegalField]
    | cons m rest =>
      by_cases hm : m.toNat ≤ 3
      · simp [handlerErrors, operandU8, ShortPayload, IllegalField, hm]
      · simp [handlerErrors, operandU8, ShortPayload, IllegalField, hm, Nat.lt_of_not_le hm]
  | setAlpha p =>
    cases p with
    | nil => simp [handlerErrors, operandU8, ShortPayload, IllegalField]
    | cons q rest =>
      by_cases hq : q.toNat ≤ 100
      · simp [handlerErrors, operandU8, ShortPayload, IllegalField, hq]
      · simp [handlerErrors, operandU8, ShortPayload, IllegalField, hq, Nat.lt_of_not_le hq]
  | getIdAndVersionResp | getThresholdResp | readCurrentValuesResp | readCurrentAveragesResp | getTriggerModeResp
  | getAlphaResp => cases hreq
  | _ => simp [handlerErrors, ShortPayload, IllegalField]

/-- No response row is a set command. -/
theorem isRequest_of_payload_error (h : ShortPayload i ∨ IllegalField i) : i.isRequest = true := by
  obtain (rfl | rfl | rfl) | ⟨b, rest, ⟨rfl, -⟩ | ⟨rfl, -⟩⟩ := h <;> rfl

/-- An instruction raises these three classes and no other (R202, R203, R206). -/
theorem mem_handlerErrors : e ∈ handlerErrors i s ↔
    (e = .malformedPayload ∧ ShortPayload i) ∨ (e = .invalidFieldValue ∧ IllegalField i) ∨
      (e = .txOverflow ∧ LostResponse i s) := by
  cases hreq : i.isRequest with
  | true => simp [mem_handlerErrors_request hreq, LostResponse, hreq]
  | false =>
    have hsound : ¬ (ShortPayload i ∨ IllegalField i) := fun h => by
      rw [isRequest_of_payload_error h] at hreq
      cases hreq
    simp [mem_handlerErrors_response hreq, LostResponse, hreq, not_or.1 hsound]

/-- A payload is not both too short and out of range. -/
theorem ShortPayload.not_illegalField (h : ShortPayload i) : ¬ IllegalField i := by
  rintro ⟨b, rest, ⟨rfl, -⟩ | ⟨rfl, -⟩⟩ <;> simp [ShortPayload] at h

/-! ## `txOverflow` -/

/-- No request sets the overflow bit (R190). -/
theorem txOverflow_of_request (hreq : i.isRequest = true) (h : exec i s = .next t) : t.txOverflow = s.txOverflow := by
  have unchanged : ∀ {u : State}, t = u → u.txOverflow = s.txOverflow → t.txOverflow = s.txOverflow :=
    fun ht hu => (congrArg State.txOverflow ht).trans hu
  have answers : ∀ {r : Instr}, AnswersWith i r s → t.txOverflow = s.txOverflow := fun ha =>
    unchanged (next_unique h ha.exec_eq) rfl
  cases i with
  | getIdAndVersion p => exact answers (getIdAndVersion_answers p s)
  | getThreshold p => exact answers (getThreshold_answers p s)
  | getTriggerMode p => exact answers (getTriggerMode_answers p s)
  | getAlpha p => exact answers (getAlpha_answers p s)
  | readCurrentValues p => exact unchanged (next_unique h (exec_snapRequest p s .values)) rfl
  | readCurrentAverages p => exact unchanged (next_unique h (exec_snapRequest p s .averages)) rfl
  | setThreshold p => exact unchanged (setThreshold_frame h) rfl
  | setTriggerMode p => exact unchanged (setTriggerMode_frame h) rfl
  | setAlpha p => exact unchanged (setAlpha_frame h) rfl
  | reset p => exact unchanged (next_unique h (exec_reset p s)) rfl
  | recalibrate p => exact unchanged (next_unique h (exec_recalibrate p s)) rfl
  | storeSettings p => exact unchanged (next_unique h (exec_storeSettings p s)) rfl
  | _ => cases hreq

/-- After an instruction the overflow bit is set if it was, or if a response is lost (R104, R206). -/
theorem txOverflow_of_exec (h : exec i s = .next t) :
    t.txOverflow = true ↔ s.txOverflow = true ∨ LostResponse i s := by
  cases hreq : i.isRequest with
  | true => simp [txOverflow_of_request hreq h, LostResponse, hreq]
  | false =>
    obtain hfull | hfit := Nat.lt_or_ge (s.tx.free s.params.txCap) (encode i).length
    · obtain rfl := next_unique h (exec_response_of_full hreq hfull)
      simp [LostResponse, hreq, hfull]
    · obtain rfl := next_unique h (exec_response_of_fits hreq hfit)
      simp [LostResponse, Nat.not_lt.2 hfit]

/-! ## The scanner -/

/-- The checks of `Decode` behind a frame start, in the order of R207. -/
theorem parseFrame_of_frameStart {n : Nat} {F : List Byte} {len : Byte} (hstart : frameStart F = true)
    (hlen : F[5]? = some len) : parseFrame n F =
      if len.toNat < 2 then .error .lengthTooSmall
      else if n < len.toNat + 5 then .error .lengthTooLarge
      else if F.length < len.toNat + 5 then .error .incomplete
      else if xorAll ((F.drop 4).take (len.toNat + 1)) ≠ 0x00 then .error .badChecksum
      else .ok (F.getD 4 0x00, (F.drop 6).take (len.toNat - 2)) := by
  match F, hlen with
  | b0 :: b1 :: b2 :: b3 :: op :: len' :: body, hlen =>
    obtain rfl : len' = len := Option.some.inj hlen
    obtain ⟨hsync, hop⟩ : [b0, b1, b2, b3] = syncBytes ∧ op ≠ 0xAA := by simpa [frameStart] using hstart
    by_cases hshort : len'.toNat < 2
    · simp only [parseFrame, hsync, hop, hshort, ne_eq, not_true_eq_false, if_false, if_true]
    · have hwhole : (b0 :: b1 :: b2 :: b3 :: op :: len' :: body).length < len'.toNat + 5 ↔
          body.length < len'.toNat - 1 := by
        simp only [List.length_cons]
        omega
      rw [checked_of_header b0 b1 b2 b3 op body (Nat.le_of_not_lt hshort)]
      simp only [parseFrame, hsync, hop, hshort, hwhole, ne_eq, not_true_eq_false, if_false]
      rfl

/-- Without a frame start nothing is rejected as a framing error (R96). -/
theorem not_framingError_of_no_frameStart {n : Nat} {F : List Byte} {r : Reject} (hstart : frameStart F = false)
    (hparse : parseFrame n F = .error r) : isFramingError r = false := by
  unfold parseFrame at hparse
  split at hparse
  next b0 b1 b2 b3 op rest =>
    split_ifs at hparse with hsync hop
    · obtain rfl := Except.error.inj hparse
      rfl
    · obtain rfl := Except.error.inj hparse
      rfl
    · have hfound : frameStart (b0 :: b1 :: b2 :: b3 :: op :: rest) = true := by
        simp only [frameStart, Bool.and_eq_true, decide_eq_true_eq]
        exact ⟨not_not.1 hsync, hop⟩
      cases hfound.symm.trans hstart
  next =>
    obtain rfl := Except.error.inj hparse
    rfl

/-- Bytes whose rejection is a framing error of steps S4 and S5, the frames allowed having up to `n` bytes (R97, R201). -/
def FramingFault (n : Nat) (F : List Byte) : Prop :=
  frameStart F = true ∧ ∃ len : Byte, F[5]? = some len ∧
    (len.toNat < 2 ∨ n < len.toNat + 5 ∨
      (len.toNat + 5 ≤ F.length ∧ xorAll ((F.drop 4).take (len.toNat + 1)) ≠ 0x00))

/-- `Decode` rejects with a framing error exactly then: the checks in front of it are those of R96. -/
theorem parseFrame_framingError_iff {n : Nat} {F : List Byte} :
    (∃ r, parseFrame n F = .error r ∧ isFramingError r = true) ↔ FramingFault n F := by
  cases hstart : frameStart F with
  | false =>
    constructor
    · rintro ⟨r, hparse, hr⟩
      rw [not_framingError_of_no_frameStart hstart hparse] at hr
      cases hr
    · rintro ⟨h, -⟩
      rw [hstart] at h
      cases h
  | true =>
    cases hlen : F[5]? with
    | none =>
      have hfive : F.length = 5 := Nat.le_antisymm (List.getElem?_eq_none_iff.1 hlen) (five_le_of_frameStart hstart)
      simp [FramingFault, parseFrame_of_arriving hstart (.inl hfive), isFramingError, hlen]
    | some len =>
      have hfault : FramingFault n F ↔ len.toNat < 2 ∨ n < len.toNat + 5 ∨
          (len.toNat + 5 ≤ F.length ∧ xorAll ((F.drop 4).take (len.toNat + 1)) ≠ 0x00) := by
        simp only [FramingFault, hstart, hlen, Option.some.injEq, exists_eq_left', true_and]
      have hreject (q : Reject) : (∃ r, (Except.error q : Except Reject (Byte × List Byte)) = .error r ∧
          isFramingError r = true) ↔ isFramingError q = true := by simp
      rw [parseFrame_of_frameStart hstart hlen, hfault]
      split_ifs with hshort hlong hfew hxor
      · exact (hreject _).trans (iff_of_true rfl (.inl hshort))
      · exact (hreject _).trans (iff_of_true rfl (.inr (.inl hlong)))
      · refine (hreject _).trans (iff_of_false Bool.false_ne_true ?_)
        rintro (h | h | ⟨h, -⟩) <;> omega
      · exact (hreject _).trans (iff_of_true rfl (.inr (.inr ⟨Nat.le_of_not_lt hfew, hxor⟩)))
      · refine iff_of_false (by simp) ?_
        rintro (h | h | ⟨-, h⟩) <;> contradiction

/-- The scanner raises a framing error and nothing else (R201). -/
theorem mem_scanErrors : e ∈ scanErrors s ↔
    e = .framingError ∧ FramingFault (s.params.rxCap - 1) (s.rxHeld.drop (noiseLen s.rxHeld)) := by
  rw [← parseFrame_framingError_iff, scanErrors]
  split
  next hok => simp [hok]
  next r hreject =>
    cases hr : isFramingError r with
    | true => simp [hreject, hr]
    | false => simp [hreject, hr]

/-! ## The steps of the agents -/

/-- The steps that raise a class, by where the agent is (R200 to R207). -/
inductive Raises (s : State) : Agent → ErrorClass → Prop where
  | scan (hready : MainReady s) (hphase : s.phase = .scan)
      (hfault : FramingFault (s.params.rxCap - 1) (s.rxHeld.drop (noiseLen s.rxHeld))) : Raises s .main .framingError
  | dispatch {e : ErrorClass} {i : Instr} (hruns : MainRuns s) (hmicro : s.micro = .dispatch)
      (hrow : requestOf (frameOpcode s) (framePayload s) = .ok i) (he : e ∈ handlerErrors i s) : Raises s .main e
  | build {e : ErrorClass} {r : Instr} (hruns : MainRuns s) (hmicro : s.micro = .build r)
      (he : e ∈ handlerErrors r s) : Raises s .main e
  | load (hrst : s.rst = false) (hidle : s.mainBusy = false) (hboot : s.boot = .b2)
      (hblock : blockValid (nvRead s) = false) : Raises s .main .settingsChecksumError
  | bus (hrst : s.rst = false) (hmask : s.intMask = false) (hpend : s.pendBus = some .buserr)
      (hacts : s.busErr = false ∨ Config.freeBool s.draws = true) : Raises s .bus .busLevelError

/-- What the main loop raises, by micro-step (R52). -/
theorem raises_of_mem_loopErrors (hruns : MainRuns s) (he : e ∈ loopErrors s) : Raises s .main e := by
  unfold loopErrors at he
  split at he
  next hmicro =>
    split at he
    next hphase =>
      obtain ⟨rfl, hfault⟩ := mem_scanErrors.1 he
      exact .scan ⟨hruns, hmicro⟩ hphase hfault
    next => cases he
  next hmicro =>
    unfold dispatchErrors at he
    split at he
    next i hrow => exact .dispatch hruns hmicro hrow he
    next => cases he
  next => cases he
  next r hmicro => exact .build hruns hmicro he
  next => cases he

/-- What `Main` raises, by boot step (R231). -/
theorem raises_of_mem_mainErrors (hrst : s.rst = false) (hidle : s.mainBusy = false) (he : e ∈ mainErrors s) :
    Raises s .main e := by
  unfold mainErrors at he
  split at he
  next => cases he
  next hboot =>
    split at he
    next => cases he
    next hblock =>
      obtain rfl := List.mem_singleton.1 he
      exact .load hrst hidle hboot (Bool.eq_false_iff.2 hblock)
  next => cases he
  next => cases he
  next hboot => exact raises_of_mem_loopErrors ⟨hrst, hboot, hidle⟩ he

/-- An enabled `Main` raises what its step does. -/
theorem agentErrors_main (hrst : s.rst = false) (hidle : s.mainBusy = false) :
    agentErrors .main s = mainErrors s := if_pos (enabled_main_iff.2 ⟨hrst, hidle⟩)

/-- In the main loop that is what the loop raises (R236). -/
theorem agentErrors_main_of_runs (hruns : MainRuns s) : agentErrors .main s = loopErrors s := by
  rw [agentErrors_main hruns.rst hruns.idle, mainErrors, hruns.boot]

/-- The model's lists hold exactly what those steps raise. -/
theorem mem_agentErrors_iff {a : Agent} : e ∈ agentErrors a s ↔ Raises s a e := by
  constructor
  · intro he
    unfold agentErrors at he
    split at he
    next hen =>
      cases a with
      | main =>
        obtain ⟨hrst, hidle⟩ := enabled_main_iff.1 hen
        exact raises_of_mem_mainErrors hrst hidle he
      | bus =>
        obtain ⟨hrst, -, hmask⟩ := enabled_bus_iff.1 hen
        dsimp only at he
        split at he
        next h =>
          obtain ⟨hpend, hacts⟩ := h
          obtain rfl := List.mem_singleton.1 he
          exact .bus hrst hmask hpend hacts
        next => cases he
      | _ => cases he
    next => cases he
  · intro h
    cases h with
    | scan hready hphase hfault =>
      rw [agentErrors_main_of_runs hready.toMainRuns, loopErrors, hready.between]
      dsimp only
      rw [if_pos hphase]
      exact mem_scanErrors.2 ⟨rfl, hfault⟩
    | dispatch hruns hmicro hrow he =>
      rw [agentErrors_main_of_runs hruns, loopErrors, hmicro]
      dsimp only
      rw [dispatchErrors, hrow]
      exact he
    | build hruns hmicro he =>
      rw [agentErrors_main_of_runs hruns, loopErrors, hmicro]
      exact he
    | load hrst hidle hboot hblock =>
      simp [agentErrors_main hrst hidle, mainErrors, hboot, hblock]
    | bus hrst hmask hpend hacts =>
      have hen : enabled .bus s = true := enabled_bus_iff.2 ⟨hrst, by simp [hpend], hmask⟩
      simp [agentErrors, hen, hpend, hacts]

/-- The row an opcode selects for the dispatcher is a request (R170). -/
theorem isRequest_of_requestOf {op : Byte} {payload : List Byte} (h : requestOf op payload = .ok i) :
    i.isRequest = true := by
  unfold requestOf at h
  split at h
  case h_13 => cases h
  all_goals
    obtain rfl := Except.ok.inj h
    rfl

/-- What the dispatcher raises is about the payload (R202, R203). -/
theorem payload_class_of_dispatch (hrow : requestOf (frameOpcode s) (framePayload s) = .ok i)
    (he : e ∈ handlerErrors i s) : e = .malformedPayload ∨ e = .invalidFieldValue :=
  ((mem_handlerErrors_request (isRequest_of_requestOf hrow)).1 he).imp And.left And.left

/-- What the frame builder raises is the loss of its response (R206). -/
theorem lost_of_build (h : Invariant s) (hmicro : s.micro = .build i) (he : e ∈ handlerErrors i s) :
    e = .txOverflow ∧ s.tx.free s.params.txCap < (encode i).length :=
  (mem_handlerErrors_response (h.building i hmicro)).1 he

/-! ## Each class at the steps that raise it -/

variable {a : Agent}

/-- (a), R201. -/
theorem framingError_mem_agentErrors (h : Invariant s) : ErrorClass.framingError ∈ agentErrors a s ↔
    a = .main ∧ MainReady s ∧ s.phase = .scan ∧
      FramingFault (s.params.rxCap - 1) (s.rxHeld.drop (noiseLen s.rxHeld)) := by
  rw [mem_agentErrors_iff]
  constructor
  · intro hraises
    cases hraises with
    | scan hready hphase hfault => exact ⟨rfl, hready, hphase, hfault⟩
    | dispatch _ _ hrow he => simpa using payload_class_of_dispatch hrow he
    | build _ hmicro he => simpa using (lost_of_build h hmicro he).1
  · rintro ⟨rfl, hready, hphase, hfault⟩
    exact .scan hready hphase hfault

/-- (b) and (c), R202 and R203. -/
theorem payload_class_mem_agentErrors (h : Invariant s) (hclass : e = .malformedPayload ∨ e = .invalidFieldValue) :
    e ∈ agentErrors a s ↔ a = .main ∧ MainRuns s ∧ s.micro = .dispatch ∧
      ∃ i, requestOf (frameOpcode s) (framePayload s) = .ok i ∧ e ∈ handlerErrors i s := by
  rw [mem_agentErrors_iff]
  constructor
  · intro hraises
    cases hraises with
    | dispatch hruns hmicro hrow he => exact ⟨rfl, hruns, hmicro, _, hrow, he⟩
    | build _ hmicro he =>
      rw [(lost_of_build h hmicro he).1] at hclass
      simp at hclass
    | _ => simp at hclass
  · rintro ⟨rfl, hruns, hmicro, i, hrow, he⟩
    exact .dispatch hruns hmicro hrow he

/-- (d), R204. -/
theorem settingsChecksumError_mem_agentErrors (h : Invariant s) : ErrorClass.settingsChecksumError ∈ agentErrors a s ↔
    a = .main ∧ s.rst = false ∧ s.mainBusy = false ∧ s.boot = .b2 ∧ blockValid (nvRead s) = false := by
  rw [mem_agentErrors_iff]
  constructor
  · intro hraises
    cases hraises with
    | load hrst hidle hboot hblock => exact ⟨rfl, hrst, hidle, hboot, hblock⟩
    | dispatch _ _ hrow he => simpa using payload_class_of_dispatch hrow he
    | build _ hmicro he => simpa using (lost_of_build h hmicro he).1
  · rintro ⟨rfl, hrst, hidle, hboot, hblock⟩
    exact .load hrst hidle hboot hblock

/-- (e), R205. -/
theorem busLevelError_mem_agentErrors (h : Invariant s) : ErrorClass.busLevelError ∈ agentErrors a s ↔
    a = .bus ∧ s.rst = false ∧ s.intMask = false ∧ s.pendBus = some .buserr ∧
      (s.busErr = false ∨ Config.freeBool s.draws = true) := by
  rw [mem_agentErrors_iff]
  constructor
  · intro hraises
    cases hraises with
    | bus hrst hmask hpend hacts => exact ⟨rfl, hrst, hmask, hpend, hacts⟩
    | dispatch _ _ hrow he => simpa using payload_class_of_dispatch hrow he
    | build _ hmicro he => simpa using (lost_of_build h hmicro he).1
  · rintro ⟨rfl, hrst, hmask, hpend, hacts⟩
    exact .bus hrst hmask hpend hacts

/-- R206. -/
theorem txOverflow_mem_agentErrors (h : Invariant s) : ErrorClass.txOverflow ∈ agentErrors a s ↔
    a = .main ∧ MainRuns s ∧ ∃ r, s.micro = .build r ∧ s.tx.free s.params.txCap < (encode r).length := by
  rw [mem_agentErrors_iff]
  constructor
  · intro hraises
    cases hraises with
    | build hruns hmicro he => exact ⟨rfl, hruns, _, hmicro, (lost_of_build h hmicro he).2⟩
    | dispatch _ _ hrow he => simpa using payload_class_of_dispatch hrow he
  · rintro ⟨rfl, hruns, r, hmicro, hfull⟩
    exact .build hruns hmicro ((mem_handlerErrors_response (h.building r hmicro)).2 ⟨rfl, hfull⟩)

end

/-- Settles O48: what an instruction raises, read off `mem_handlerErrors`, and what a step raises, class by class. -/
theorem txOverflowMarksALostResponse : Obligations.TxOverflowMarksALostResponse := by
  refine ⟨fun i s t ht => ?_, fun i s => ⟨?_, ?_, ?_, ?_⟩, fun a s h =>
    ⟨framingError_mem_agentErrors h, fun e he => ?_, settingsChecksumError_mem_agentErrors h,
      busLevelError_mem_agentErrors h, txOverflow_mem_agentErrors h⟩⟩
  · rw [Bool.eq_iff_iff, Bool.or_eq_true, decide_eq_true_iff, txOverflow_of_exec ht]
    simp [mem_handlerErrors]
  · simp [mem_handlerErrors, ShortPayload]
  · simp [mem_handlerErrors, IllegalField]
  · simp [mem_handlerErrors, LostResponse]
  · simpa [mem_handlerErrors] using ShortPayload.not_illegalField
  · exact payload_class_mem_agentErrors h (by simpa using he)

end Sys2Proof.Machine

/-! PROOF. The four vectors of sections 3.1 and 3.2 (O5). Each is the encoder's frame of its instruction, so that the two
round trips (O1, O2) decode it. -/
namespace Sys2Proof

/-- Bytes that are the frame of a well-formed request decode to it. -/
theorem decode_eq_of_encode_eq {i : Instr} {bytes : List Byte} (hwf : i.wellFormed = true) (hreq : i.isRequest = true)
    (hframe : encode i = bytes) : decode bytes = .ok i :=
  hframe ▸ decodeEncodeAgreesOnRequests i hwf hreq

/-- Bytes that are the frame of a well-formed response decode to it. -/
theorem decodeResponse_eq_of_encode_eq {i : Instr} {bytes : List Byte} (hwf : i.wellFormed = true)
    (hresp : i.isRequest = false) (hframe : encode i = bytes) : decodeResponse bytes = .ok i :=
  hframe ▸ decodeEncodeAgreesOnResponses i hwf hresp

/-- Section 3.1. -/
theorem encode_setThreshold_seven :
    encode (.setThreshold [0x07]) = [0xAA, 0x55, 0xAA, 0x55, 0x03, 0x03, 0x07, 0x07] := by decide

/-- Section 3.1. -/
theorem encode_getTriggerMode :
    encode (.getTriggerMode []) = [0xAA, 0x55, 0xAA, 0x55, 0x07, 0x02, 0x05] := by decide

/-- Section 3.1: the illegal percentage is encoded as any other byte (R74). -/
theorem encode_setAlpha_illegal :
    encode (.setAlpha [0xFF]) = [0xAA, 0x55, 0xAA, 0x55, 0x0C, 0x03, 0xFF, 0xF0] := by decide

/-- Section 3.2: each value stands low byte first, channel 0 first (R67). -/
theorem encode_readCurrentValuesResp :
    encode (.readCurrentValuesResp 0x0200 0x01FF 0x0000 0x03FF) =
      [0xAA, 0x55, 0xAA, 0x55, 0x04, 0x0A, 0x00, 0x02, 0xFF, 0x01, 0x00, 0x00, 0xFF, 0x03, 0x0E] := by decide

/-- Settles O5: each word is the frame of its instruction, which the decoder of its direction reads back (O1, O2). -/
theorem specWordsDecode : Obligations.SpecWordsDecode :=
  ⟨decode_eq_of_encode_eq rfl rfl encode_setThreshold_seven, decode_eq_of_encode_eq rfl rfl encode_getTriggerMode,
    decode_eq_of_encode_eq rfl rfl encode_setAlpha_illegal,
    decodeResponse_eq_of_encode_eq rfl rfl encode_readCurrentValuesResp⟩

end Sys2Proof
